-- ==== Sys2Proof/Word.lean ====
section
/-! DEFINITION. The word types of the POES-USRP CORE: a byte (a memory byte, a GF(256) element) and a 32-bit
bus or register word. -/

namespace Sys2Proof

/-- One byte: an element of GF(256) (R200) or one byte of a memory window (R107). -/
abbrev Byte := BitVec 8

/-- One 32-bit bus word, register value or command word (R100, R130). -/
abbrev Word := BitVec 32

end Sys2Proof
end

