-- ==== Sys2Proof/Syntax.lean ====
section
/-! DEFINITION. The commands of the CORE (R133): one constructor for each row of spec/opcode_table.json. -/

namespace Sys2Proof

/-- The CADU_READ mode `LK` (R132): 0 is search, 1 is locked. -/
inductive ReadMode where
  | search
  | locked
  deriving DecidableEq, Repr

/-- A command with its operands (R132, R137). `A` and `B` are bytes; `IL` is an interleave level and `N` a byte
count, held as numbers whose range `Instr.wf` checks: an operand that does not fit its field is an assembly
error, not a truncation (R137). -/
inductive Instr where
  | nop
  | gfLog (a : Byte)
  | gfExp (a : Byte)
  | gfMul (a b : Byte)
  | gfDiv (a b : Byte)
  | rsSyn (il : Nat)
  | rsBm
  | rsChien
  | rsForney
  | rsCorr (il : Nat)
  | rsDecode
  | drApply
  | syncFind
  | syncSkip (n : Nat)
  | caduRead (lk : ReadMode)
  | dpFrame
  | dpAck
  | dpFlush
  | dpReset
  | coreReset
  deriving DecidableEq, Repr

end Sys2Proof
end

