-- ==== Sys2Proof/WellFormed.lean ====
section
/-! DEFINITION. Which commands can be written down: every operand fits its field (R132, R137). -/

namespace Sys2Proof

/-- The operands fit their fields: `IL` has 3 bits and `N` has 17 bits (R132). The byte operands and the mode
fit by their types. -/
def Instr.wf : Instr → Bool
  | .rsSyn il => decide (il < 8)
  | .rsCorr il => decide (il < 8)
  | .syncSkip n => decide (n < 131072)
  | .nop => true
  | .gfLog _ => true
  | .gfExp _ => true
  | .gfMul _ _ => true
  | .gfDiv _ _ => true
  | .rsBm => true
  | .rsChien => true
  | .rsForney => true
  | .rsDecode => true
  | .drApply => true
  | .syncFind => true
  | .caduRead _ => true
  | .dpFrame => true
  | .dpAck => true
  | .dpFlush => true
  | .dpReset => true
  | .coreReset => true

end Sys2Proof
end

