-- ==== Sys2Proof/Decode.lean ====
section
/-! DEFINITION. Decoding a 32-bit command word (R130 to R135), total and rejecting by name, and the encoder
(R139), both written from the formats of R132. -/

namespace Sys2Proof

/-- Why a command word is illegal (R135). -/
inductive DecodeError where
  /-- `OPC` is not assigned to any command. -/
  | unassignedOpcode
  /-- `OPC` is assigned and a reserved bit of its format is 1. -/
  | reservedBitSet
  deriving DecidableEq, Repr

/-! ### Formats of R132, read -/

/-- `OPC = w[31:26]` (R131). -/
def opcOf (w : Word) : Nat := (w.extractLsb' 26 6).toNat

/-- Format `N`: bits [25:0] are reserved. -/
def formatN (w : Word) (i : Instr) : Except DecodeError Instr :=
  if w.extractLsb' 0 26 = 0#26 then .ok i else .error .reservedBitSet

/-- Format `A`: `A = w[15:8]`; bits [25:16] and [7:0] are reserved. -/
def formatA (w : Word) (mk : Byte → Instr) : Except DecodeError Instr :=
  if w.extractLsb' 16 10 = 0#10 ∧ w.extractLsb' 0 8 = 0#8 then .ok (mk (w.extractLsb' 8 8))
  else .error .reservedBitSet

/-- Format `AB`: `A = w[15:8]`, `B = w[7:0]`; bits [25:16] are reserved. -/
def formatAB (w : Word) (mk : Byte → Byte → Instr) : Except DecodeError Instr :=
  if w.extractLsb' 16 10 = 0#10 then .ok (mk (w.extractLsb' 8 8) (w.extractLsb' 0 8))
  else .error .reservedBitSet

/-- Format `IL`: `IL = w[2:0]`; bits [25:3] are reserved. -/
def formatIL (w : Word) (mk : Nat → Instr) : Except DecodeError Instr :=
  if w.extractLsb' 3 23 = 0#23 then .ok (mk (w.extractLsb' 0 3).toNat) else .error .reservedBitSet

/-- Format `NS`: `N = w[16:0]`; bits [25:17] are reserved. -/
def formatNS (w : Word) (mk : Nat → Instr) : Except DecodeError Instr :=
  if w.extractLsb' 17 9 = 0#9 then .ok (mk (w.extractLsb' 0 17).toNat) else .error .reservedBitSet

/-- Format `LK`: `LK = w[0]`; bits [25:1] are reserved. -/
def formatLK (w : Word) (mk : ReadMode → Instr) : Except DecodeError Instr :=
  if w.extractLsb' 1 25 = 0#25 then .ok (mk (if w.extractLsb' 0 1 = 1#1 then .locked else .search))
  else .error .reservedBitSet

/-- The command a word stands for, or why it is illegal (R133, R135). It depends on the word alone (R134). -/
def decode (w : Word) : Except DecodeError Instr :=
  match opcOf w with
  | 0x00 => formatN w .nop
  | 0x01 => formatA w .gfLog
  | 0x02 => formatA w .gfExp
  | 0x03 => formatAB w .gfMul
  | 0x04 => formatAB w .gfDiv
  | 0x08 => formatIL w .rsSyn
  | 0x09 => formatN w .rsBm
  | 0x0A => formatN w .rsChien
  | 0x0B => formatN w .rsForney
  | 0x0C => formatIL w .rsCorr
  | 0x0D => formatN w .rsDecode
  | 0x10 => formatN w .drApply
  | 0x14 => formatN w .syncFind
  | 0x15 => formatNS w .syncSkip
  | 0x18 => formatLK w .caduRead
  | 0x20 => formatN w .dpFrame
  | 0x21 => formatN w .dpAck
  | 0x22 => formatN w .dpFlush
  | 0x23 => formatN w .dpReset
  | 0x3F => formatN w .coreReset
  | _ => .error .unassignedOpcode

/-! ### The encoder (R139), the fields of R132 from bit 31 down -/

/-- `enc_N(opc)`. -/
def encN (opc : BitVec 6) : Word := opc ++ 0#26

/-- `enc_A(opc, a)`. -/
def encA (opc : BitVec 6) (a : Byte) : Word := opc ++ 0#10 ++ a ++ 0#8

/-- `enc_AB(opc, a, b)`. -/
def encAB (opc : BitVec 6) (a b : Byte) : Word := opc ++ 0#10 ++ a ++ b

/-- `enc_IL(opc, il)`. -/
def encIL (opc : BitVec 6) (il : Nat) : Word := opc ++ 0#23 ++ BitVec.ofNat 3 il

/-- `enc_NS(opc, n)`. -/
def encNS (opc : BitVec 6) (n : Nat) : Word := opc ++ 0#9 ++ BitVec.ofNat 17 n

/-- `enc_LK(opc, lk)`. -/
def encLK (opc : BitVec 6) (lk : ReadMode) : Word :=
  opc ++ 0#25 ++ (match lk with | .search => 0#1 | .locked => 1#1)

/-- The word of a well-formed command (R133, R139). -/
def encode : Instr → Word
  | .nop => encN 0x00
  | .gfLog a => encA 0x01 a
  | .gfExp a => encA 0x02 a
  | .gfMul a b => encAB 0x03 a b
  | .gfDiv a b => encAB 0x04 a b
  | .rsSyn il => encIL 0x08 il
  | .rsBm => encN 0x09
  | .rsChien => encN 0x0A
  | .rsForney => encN 0x0B
  | .rsCorr il => encIL 0x0C il
  | .rsDecode => encN 0x0D
  | .drApply => encN 0x10
  | .syncFind => encN 0x14
  | .syncSkip n => encNS 0x15 n
  | .caduRead lk => encLK 0x18 lk
  | .dpFrame => encN 0x20
  | .dpAck => encN 0x21
  | .dpFlush => encN 0x22
  | .dpReset => encN 0x23
  | .coreReset => encN 0x3F

/-! ### The opcode map of R133 as a table -/

/-- One row of the opcode map: a word `w` is the row's command when `w &&& mask = pattern` (R133). -/
structure OpcodeRow where
  mnemonic : String
  pattern : Word
  mask : Word
  deriving DecidableEq, Repr

/-- The opcode map of R133. -/
def opcodeMap : List OpcodeRow :=
  [ ⟨"NOP", 0x00000000, 0xFFFFFFFF⟩, ⟨"GF_LOG", 0x04000000, 0xFFFF00FF⟩,
    ⟨"GF_EXP", 0x08000000, 0xFFFF00FF⟩, ⟨"GF_MUL", 0x0C000000, 0xFFFF0000⟩,
    ⟨"GF_DIV", 0x10000000, 0xFFFF0000⟩, ⟨"RS_SYN", 0x20000000, 0xFFFFFFF8⟩,
    ⟨"RS_BM", 0x24000000, 0xFFFFFFFF⟩, ⟨"RS_CHIEN", 0x28000000, 0xFFFFFFFF⟩,
    ⟨"RS_FORNEY", 0x2C000000, 0xFFFFFFFF⟩, ⟨"RS_CORR", 0x30000000, 0xFFFFFFF8⟩ ] ++
  [ ⟨"RS_DECODE", 0x34000000, 0xFFFFFFFF⟩, ⟨"DR_APPLY", 0x40000000, 0xFFFFFFFF⟩,
    ⟨"SYNC_FIND", 0x50000000, 0xFFFFFFFF⟩, ⟨"SYNC_SKIP", 0x54000000, 0xFFFE0000⟩,
    ⟨"CADU_READ", 0x60000000, 0xFFFFFFFE⟩, ⟨"DP_FRAME", 0x80000000, 0xFFFFFFFF⟩,
    ⟨"DP_ACK", 0x84000000, 0xFFFFFFFF⟩, ⟨"DP_FLUSH", 0x88000000, 0xFFFFFFFF⟩,
    ⟨"DP_RESET", 0x8C000000, 0xFFFFFFFF⟩, ⟨"CORE_RESET", 0xFC000000, 0xFFFFFFFF⟩ ]

/-- The mnemonic of a command (R133). -/
def Instr.mnemonic : Instr → String
  | .nop => "NOP"
  | .gfLog _ => "GF_LOG"
  | .gfExp _ => "GF_EXP"
  | .gfMul _ _ => "GF_MUL"
  | .gfDiv _ _ => "GF_DIV"
  | .rsSyn _ => "RS_SYN"
  | .rsBm => "RS_BM"
  | .rsChien => "RS_CHIEN"
  | .rsForney => "RS_FORNEY"
  | .rsCorr _ => "RS_CORR"
  | .rsDecode => "RS_DECODE"
  | .drApply => "DR_APPLY"
  | .syncFind => "SYNC_FIND"
  | .syncSkip _ => "SYNC_SKIP"
  | .caduRead _ => "CADU_READ"
  | .dpFrame => "DP_FRAME"
  | .dpAck => "DP_ACK"
  | .dpFlush => "DP_FLUSH"
  | .dpReset => "DP_RESET"
  | .coreReset => "CORE_RESET"

/-- The two pseudo-instructions of R138: `GF_SQR a` is `GF_MUL a, a`. -/
def gfSqr (a : Byte) : Instr := .gfMul a a

/-- The two pseudo-instructions of R138: `SYNC_LOCK_NEXT` is `CADU_READ LOCKED`. -/
def syncLockNext : Instr := .caduRead .locked

/-- What the decoder reads from an opcode-table row's bits: a command is one 32-bit word (R130), and bits above
`nbits` are 0. -/
def decodeTableWord (nbits w : Nat) : Option Instr :=
  if nbits ≤ 32 then (decode (BitVec.ofNat 32 (w % 2 ^ nbits))).toOption else none

end Sys2Proof
end

