-- ==== Sys2Proof/Config.lean ====
section
/-! DEFINITION. What an implementation fixes: the parameters of R8 at the values the spec gives them, and the
values the spec leaves open, as constants with no body. -/

namespace Sys2Proof.Config

/-! ### Implementation parameters (R8) -/

/-- `NN`, the code length `2^M - 1` (R8). -/
abbrev nn : Nat := 255

/-- `T_MAX`, the largest correctable-error count (R8). -/
abbrev tMax : Nat := 16

/-- `I_MAX`, the largest interleave depth (R8). -/
abbrev iMax : Nat := 8

/-- `SLEN_MAX`, the longest sync marker in bytes (R8). -/
abbrev slenMax : Nat := 8

/-- `FB_SIZE`, bytes of the frame buffer (R8). -/
abbrev fbSize : Nat := 2048

/-- `IN_SIZE`, bytes of the input stream window (R8). -/
abbrev inSize : Nat := 65536

/-- `SL_CELLS`, 16-bit cells of the scan-line buffer (R8). -/
abbrev slCells : Nat := 16384

/-! ### Values the spec leaves open (free values: nothing evaluates them) -/

/-- What a byte of `FB`, `IN` or `SL` that nothing has written since the power-on reset reads as, by its bus
address: one draw per byte, stable until it is written (R601, R13). Log entry 1. -/
opaque powerOnByte : Nat → Byte

/-- The value of the `n`-th bus read that returns no defined value (R520, R521). Log entry 3. -/
opaque undefinedRead : Nat → Word

/-- How many host accesses the CORE lets pass between the issue of a command and the step that executes it:
finite, otherwise unspecified (R630). Log entry 4. -/
opaque pollsBeforeCompletion : Nat → Nat

end Sys2Proof.Config
end

