-- ==== Sys2Proof/Machine/State.lean ====
section
/-! DEFINITION. The state of the CORE (R30) as plain data, its value after the power-on reset (R600, R601), and
the reasons a step can stop. Each register is held as its listed fields: a bit that no field holds is reserved,
reads 0 and ignores writes (R106). -/

namespace Sys2Proof.Machine

/-! ### Why a step can stop -/

/-- No step of this model ends in a fault. A bus access the spec calls `fault HAZARD` or `fault HOST_BUS` has no
effect on the CORE and sets a mark that the state holds (R88, R520, R521): the machine goes on. Nobody raises a
fault, which is safe: the marks are in the state, and the values read after one are free (log entry 3). -/
inductive Fault where
  deriving DecidableEq, Repr

/-- Why a command has no meaning. -/
inductive Refusal where
  /-- A command the model gives no meaning to yet, by its mnemonic. Every command has its meaning, so nothing
  raises it; it would be safe (the machine would stop where the hardware goes on). -/
  | notModelled (mnemonic : String)
  deriving DecidableEq, Repr

/-! ### Registers, field by field -/

/-- The result codes of R502 that `STATUS.ERRCODE` holds. -/
inductive ErrCode where
  | ok
  | illegal
  | cfg
  | range
  | divZero
  | seq
  deriving DecidableEq, Repr

/-- `STATUS` (R34). `LINE_READY` and `LINE_INC` are views of the DP state and have no storage here. -/
structure Status where
  busy : Bool
  done : Bool
  err : Bool
  errcode : ErrCode
  eos : Bool
  short : Bool
  found : Bool
  frameValid : Bool
  lockMiss : Bool
  log0 : Bool
  deriving DecidableEq, Repr

/-- `IRQ_EN` (R35). -/
structure IrqEn where
  doneIe : Bool
  errIe : Bool
  lineIe : Bool
  deriving DecidableEq, Repr

/-- `RS_CFG` (R36): `T`, `I`, `BASIS` (true is the dual basis), `VF`, `RS_EN`, `DR_EN`. -/
structure RsCfg where
  t : BitVec 5
  i : BitVec 4
  basis : Bool
  vf : BitVec 8
  rsEn : Bool
  drEn : Bool
  deriving DecidableEq, Repr

/-- `RS_GEN` (R37). -/
structure RsGen where
  mo : BitVec 8
  poa : BitVec 8
  deriving DecidableEq, Repr

/-- `DP_CFG` (R56). -/
structure DpCfg where
  h8 : Bool
  apidFilt : Bool
  zsAuto : Bool
  deriving DecidableEq, Repr

/-- `DP_GEOM` (R59). -/
structure DpGeom where
  w : BitVec 16
  c : BitVec 4
  deriving DecidableEq, Repr

/-- One entry `APIDk` of the allow-list (R62). -/
structure ApidEntry where
  apid : BitVec 11
  v : Bool
  deriving DecidableEq, Repr

/-- The registers the host configures and the CORE only reads (R35 to R40, R56 to R62); `CORE_RESET` alone among
the commands writes them. -/
structure CfgRegs where
  irqEn : IrqEn
  rsCfg : RsCfg
  rsGen : RsGen
  slen : BitVec 4
  marker0 : Word
  marker1 : Word
  dpCfg : DpCfg
  dpZs : BitVec 11
  dpSkip : BitVec 16
  dpGeom : DpGeom
  dpFill : BitVec 16
  vcidMask0 : Word
  vcidMask1 : Word
  apid : Vector ApidEntry 8
  deriving DecidableEq, Repr

/-- The stream registers `IN_LEN`, `RDPTR`, `SYNC_OFF`, `SYNC_COUNT`, `CADU_COUNT` (R42 to R46). -/
structure StreamRegs where
  inLen : BitVec 17
  rdptr : BitVec 17
  syncOff : BitVec 17
  syncCount : Word
  caduCount : Word
  deriving DecidableEq, Repr

/-- `RS_RESULT` (R47). -/
structure RsResult where
  corr : BitVec 8
  unc : BitVec 4
  allClean : Bool
  deriving DecidableEq, Repr

/-- One register `RS_ILk` (R48). -/
structure RsIl where
  cnt : BitVec 5
  uncorr : Bool
  clean : Bool
  deriving DecidableEq, Repr

/-- `RS_STAGE` (R50). -/
structure RsStage where
  l : BitVec 6
  nloc : BitVec 8
  uncorr : Bool
  cause : BitVec 2
  synNz : Bool
  il : BitVec 3
  deriving DecidableEq, Repr

/-- The RS scratch arrays (R83). -/
structure Scratch where
  syn : Vector Byte 32
  sigma : Vector Byte 34
  omega : Vector Byte 32
  loc : Vector Byte 32
  mag : Vector Byte 32
  deriving DecidableEq, Repr

/-- The registers and scratch of the RS unit (R47 to R50, R83). -/
structure RsRegs where
  result : RsResult
  ils : Vector RsIl 8
  totCorr : Word
  totUnc : Word
  totFrames : Word
  stage : RsStage
  scratch : Scratch
  deriving DecidableEq, Repr

/-- `DP_STATE.STATE` (R63, R340). -/
inductive DpPhase where
  | seek
  | inPkt
  | span
  | lineDone
  deriving DecidableEq, Repr

/-- The registers of the DP unit: `DP_STATE` (R63), `DP_CURSOR` (R64), `DP_SPAN` (R65), `DP_PKT` (R66) and the
counters of R67. -/
structure DpRegs where
  phase : DpPhase
  shift2 : BitVec 2
  carryV : Bool
  inc : Bool
  carry : Byte
  pos : BitVec 11
  cursor : BitVec 15
  span : BitVec 17
  pktApid : BitVec 11
  pktSeq : BitVec 14
  lines : Word
  incLines : Word
  proto : Word
  vcSkip : Word
  apSkip : Word
  deriving DecidableEq, Repr

/-! ### Memory and the host -/

/-- The RAM of the CORE's address space (`FB`, `IN` and `SL`, R80 to R82), by bus byte address (R101): the bytes
written since the power-on reset, addresses strictly rising. An address that is not listed has not been written
and reads as its draw `Config.powerOnByte` (R601). -/
abbrev Memory := List Host.Cell

/-- One action of the host (R4, R137): `MemRead`, `MemWrite` with the access width in bytes (R100, R104), and
`WAIT`, which reads `STATUS` until `BUSY` is 0. -/
inductive HostOp where
  | read (addr : Word) (width : Nat)
  | write (addr : Word) (width : Nat) (v : Word)
  | wait
  deriving DecidableEq, Repr

/-- The state of the CORE (R30), the model's fault marks (R88), and the model's own record of the host. -/
structure State where
  /-- `CMD` (R33). -/
  cmd : Word
  /-- `PENDING` (R86). -/
  pending : Word
  /-- `STATUS` (R34); its `busy` is the `BUSY` of R86. -/
  status : Status
  cfg : CfgRegs
  stream : StreamRegs
  rs : RsRegs
  /-- `GF_RES` (R51). -/
  gfRes : Byte
  dp : DpRegs
  mem : Memory
  /-- The fault mark `HAZARD` (R88). -/
  hazard : Bool
  /-- The fault mark `HOST_BUS` (R88). -/
  hostBus : Bool
  /-- The model's own: the host's coming actions, oldest first (log entry 5). -/
  host : List HostOp
  /-- The model's own: host accesses still to pass before the pending command's step (log entry 4). -/
  delay : Nat
  /-- The model's own: the value the last bus read returned to the host (log entry 6). -/
  busData : Word
  /-- The model's own: how many free values have been drawn (log entry 7). -/
  freeCount : Nat
  deriving DecidableEq, Repr

/-! ### The power-on reset (R600) -/

/-- `STATUS` at 0x00000000 (R34). -/
def Status.reset : Status where
  busy := false
  done := false
  err := false
  errcode := .ok
  eos := false
  short := false
  found := false
  frameValid := false
  lockMiss := false
  log0 := false

/-- The reset configuration: the CCSDS values of R9 (R35 to R40, R56 to R62). -/
def CfgRegs.reset : CfgRegs where
  irqEn := ⟨false, false, false⟩
  rsCfg := ⟨16, 4, true, 0, true, true⟩
  rsGen := ⟨112, 11⟩
  slen := 4
  marker0 := 0x1DFCCF1A
  marker1 := 0
  dpCfg := ⟨false, false, true⟩
  dpZs := 884
  dpSkip := 0
  dpGeom := ⟨0, 0⟩
  dpFill := 0
  vcidMask0 := 0
  vcidMask1 := 0
  apid := Vector.replicate 8 ⟨0, false⟩

/-- The stream registers at 0 (R42 to R46). -/
def StreamRegs.reset : StreamRegs := ⟨0, 0, 0, 0, 0⟩

/-- The RS scratch, all zero (R83). -/
def Scratch.reset : Scratch where
  syn := Vector.replicate 32 0
  sigma := Vector.replicate 34 0
  omega := Vector.replicate 32 0
  loc := Vector.replicate 32 0
  mag := Vector.replicate 32 0

/-- The RS registers at 0 (R47 to R50). -/
def RsRegs.reset : RsRegs where
  result := ⟨0, 0, false⟩
  ils := Vector.replicate 8 ⟨0, false, false⟩
  totCorr := 0
  totUnc := 0
  totFrames := 0
  stage := ⟨0, 0, false, 0, false, 0⟩
  scratch := Scratch.reset

/-- `DP_STATE` at 0x0000000C, every other DP register at 0 (R63 to R67). -/
def DpRegs.reset : DpRegs where
  phase := .seek
  shift2 := 3
  carryV := false
  inc := false
  carry := 0
  pos := 0
  cursor := 0
  span := 0
  pktApid := 0
  pktSeq := 0
  lines := 0
  incLines := 0
  proto := 0
  vcSkip := 0
  apSkip := 0

/-- The machine right after the power-on reset (R600, R601): every register at the value of R600's table, `BUSY`,
`PENDING` and the marks clear, the scratch zero, no byte of `IN`, `FB` or `SL` written. The host has nothing to
do yet, and the model's own fields are 0 (log entries 5, 6 and 7). -/
def State.reset : State where
  cmd := 0
  pending := 0
  status := Status.reset
  cfg := CfgRegs.reset
  stream := StreamRegs.reset
  rs := RsRegs.reset
  gfRes := 0
  dp := DpRegs.reset
  mem := []
  hazard := false
  hostBus := false
  host := []
  delay := 0
  busData := 0
  freeCount := 0

end Sys2Proof.Machine
end

