-- ==== Sys2Proof/Machine/Ops.lean ====
section
/-! DEFINITION. The named operations every command uses: bytes and words, the RAM, the windows `FB`, `IN` and `SL`
by element (R111), and the completion of a command (R503), which is this machine's counterpart of taking an
exception (R506), with the host's acknowledgement beside it. -/

namespace Sys2Proof.Machine

/-! ### Bytes and words -/

/-- `BE16(x, y)`: two bytes read most significant first (R12). -/
def be16 (x y : Byte) : BitVec 16 := x ++ y

/-- A bus word from four window bytes, the lowest address in bits [7:0] (R102). -/
def le32 (b0 b1 b2 b3 : Byte) : Word := b3 ++ b2 ++ b1 ++ b0

/-- Byte `k` of a bus word: the byte at window address `a + k` (R102). -/
def wordByte (w : Word) (k : Nat) : Byte := w.extractLsb' (8 * k) 8

/-- The exclusive-or of `f` over a list: `XOR over i` (R14). -/
def xorOver (is : List Nat) (f : Nat → Byte) : Byte := is.foldl (fun acc i => acc ^^^ f i) 0

/-! ### The RAM -/

/-- The byte last written at an address, if one was. -/
def Memory.lookup : Memory → Nat → Option Byte
  | [], _ => none
  | (k, v) :: m, a => if k = a then some v else Memory.lookup m a

/-- Writes one byte, keeping the addresses strictly rising. -/
def Memory.store : Memory → Nat → Byte → Memory
  | [], a, v => [(a, v)]
  | (k, w) :: m, a, v =>
    if a < k then (a, v) :: (k, w) :: m
    else if a = k then (a, v) :: m
    else (k, w) :: Memory.store m a v

/-- Every address of the list is above `lo`, and the addresses rise strictly. -/
def Memory.risingFrom : Nat → Memory → Bool
  | _, [] => true
  | lo, (k, _) :: m => decide (lo ≤ k) && Memory.risingFrom (k + 1) m

/-- First bus address of the `FB` window (R101). -/
abbrev fbBase : Nat := 0x1000

/-- First bus address of the `IN` window (R101). -/
abbrev inBase : Nat := 0x10000

/-- First bus address of the `SL` window (R101). -/
abbrev slBase : Nat := 0x20000

/-- An address of the `FB` window (R101). -/
def inFbWindow (a : Nat) : Bool := decide (fbBase ≤ a ∧ a < fbBase + Config.fbSize)

/-- An address of the `IN` window (R101). -/
def inInWindow (a : Nat) : Bool := decide (inBase ≤ a ∧ a < inBase + Config.inSize)

/-- An address of the `SL` window (R101). -/
def inSlWindow (a : Nat) : Bool := decide (slBase ≤ a ∧ a < slBase + 2 * Config.slCells)

/-- An address of a RAM window: `FB`, `IN` or `SL` (R101). -/
def ramAddr (a : Nat) : Bool := inFbWindow a || inInWindow a || inSlWindow a

/-- The canonical form of the RAM: addresses strictly rising, each in a RAM window. -/
def Memory.wf (m : Memory) : Bool := m.risingFrom 0 && m.all fun cell => ramAddr cell.1

/-- What a RAM byte reads as: the byte last written, else the byte drawn at the power-on reset (R601). -/
def Memory.byteAt (m : Memory) (a : Nat) : Byte := (m.lookup a).getD (Config.powerOnByte a)

/-- What a RAM byte reads as. -/
def State.byteAt (s : State) (a : Nat) : Byte := s.mem.byteAt a

/-- Writes one RAM byte. -/
def State.setByte (s : State) (a : Nat) (v : Byte) : State := { s with mem := s.mem.store a v }

/-! ### Elements of the windows (R80 to R82, R111) -/

/-- `FB[i]`. -/
def State.fb (s : State) (i : Nat) : Byte := s.byteAt (fbBase + i)

/-- `FB[i] <- v`. -/
def State.setFb (s : State) (i : Nat) (v : Byte) : State := s.setByte (fbBase + i) v

/-- `IN[i]`. -/
def State.inByte (s : State) (i : Nat) : Byte := s.byteAt (inBase + i)

/-- `SL[i]`: its low byte lies at `0x20000 + 2i`, its high byte one above (R108). -/
def State.sl (s : State) (i : Nat) : BitVec 16 := s.byteAt (slBase + 2 * i + 1) ++ s.byteAt (slBase + 2 * i)

/-- `SL[i] <- v`. -/
def State.setSl (s : State) (i : Nat) (v : BitVec 16) : State :=
  (s.setByte (slBase + 2 * i) (v.extractLsb' 0 8)).setByte (slBase + 2 * i + 1) (v.extractLsb' 8 8)

/-- `FB[base + j] <- f j` for `j` in `0 .. n-1`, in rising order. -/
def State.fillFb (s : State) (base n : Nat) (f : Nat → Byte) : State :=
  (List.range n).foldl (fun s j => s.setFb (base + j) (f j)) s

/-! ### Completing a command (R503, R506) -/

/-- The completion fields of `STATUS` (R503): `BUSY` falls, `DONE` rises, `ERRCODE` takes the code and `ERR` is
sticky. -/
def Status.complete (code : ErrCode) (st : Status) : Status :=
  { st with busy := false, done := true, errcode := code, err := st.err || decide (code ≠ .ok) }

/-- `complete(code)` (R503). It is the counterpart of trap entry: the failing word stays in `CMD` (R506). -/
def State.complete (code : ErrCode) (s : State) : State := { s with status := s.status.complete code }

/-- A host write of 1 to bit 1 or bit 2 of `STATUS` clears `DONE` or `ERR` (R34): the counterpart of the return
from a trap (R506). -/
def Status.acknowledge (done err : Bool) (st : Status) : Status :=
  { st with done := st.done && !done, err := st.err && !err }

/-- The first failing check's code, in order (R504). -/
def firstFailure : List (Bool × ErrCode) → Option ErrCode
  | [] => none
  | (fails, code) :: checks => if fails then some code else firstFailure checks

/-- Executes a command that decoded (R501): its checks in order, the first that fails completing with its code and
writing nothing else; else its pseudocode, completing with OK. -/
def runCommand (checks : List (Bool × ErrCode)) (body : State → State) (s : State) :
    Host.Outcome State Fault Refusal :=
  match firstFailure checks with
  | some code => .next (s.complete code)
  | none => .next ((body s).complete .ok)

end Sys2Proof.Machine
end

