-- ==== Sys2Proof/Machine/Operands.lean ====
section
/-! DEFINITION. The operands a command computes from the registers at the moment it executes: the derived
quantities of R68, the legality predicates of R69, the marker bytes of R40 and the frame's fields of R342. -/

namespace Sys2Proof.Machine

/-! ### Derived quantities (R68), under the manual's names -/

namespace CfgRegs

variable (c : CfgRegs)

/-- `S = SYNC_CFG.SLEN`. -/
def S : Nat := c.slen.toNat

/-- `T = RS_CFG.T`. -/
def T : Nat := c.rsCfg.t.toNat

/-- `I = RS_CFG.I`. -/
def I : Nat := c.rsCfg.i.toNat

/-- `VF = RS_CFG.VF`. -/
def VF : Nat := c.rsCfg.vf.toNat

/-- `MO = RS_GEN.MO`. -/
def MO : Nat := c.rsGen.mo.toNat

/-- `POA = RS_GEN.POA`. -/
def POA : Nat := c.rsGen.poa.toNat

/-- `NSYM = 255 - VF`, real symbols per codeword. -/
def NSYM : Nat := 255 - c.VF

/-- `KDAT = 255 - 2*T - VF`, data symbols per codeword; negative when the configuration is illegal. -/
def KDAT : Int := 255 - 2 * (c.T : Int) - (c.VF : Int)

/-- `FLEN = S + NSYM * I`, the frame length. -/
def FLEN : Nat := c.S + c.NSYM * c.I

/-- `H = 6 + 2*DP_CFG.H8`, the channel-header size. -/
def H : Nat := if c.dpCfg.h8 then 8 else 6

/-- `ZBASE = S + H + 2`, the `FB` index of zone byte 0. -/
def ZBASE : Nat := c.S + c.H + 2

/-- `ZS_eff`: `KDAT * I - H - 2` when `ZS_AUTO` is 1, else `DP_ZONE.ZS`. -/
def ZSeff : Int := if c.dpCfg.zsAuto then c.KDAT * (c.I : Int) - (c.H : Int) - 2 else (c.dpZs.toNat : Int)

/-- `ZS = ZS_eff`, as a byte count; it is used only where `CFG_DP_OK` makes `ZS_eff` positive. -/
def ZS : Nat := c.ZSeff.toNat

/-- `WC = W * C`, samples of a line. -/
def WC : Nat := c.dpGeom.w.toNat * c.dpGeom.c.toNat

/-! ### Legality predicates (R69) -/

/-- `CFG_RS_OK`. -/
def rsOk : Bool :=
  decide (1 ≤ c.T) && decide (c.T ≤ Config.tMax) && decide (1 ≤ c.I) && decide (c.I ≤ Config.iMax) &&
    decide (1 ≤ c.KDAT) && decide (Nat.gcd c.POA 255 = 1)

/-- `CFG_SYNC_OK`. -/
def syncOk : Bool := decide (1 ≤ c.S) && decide (c.S ≤ Config.slenMax)

/-- `CFG_FRAME_OK`. -/
def frameOk : Bool := c.rsOk && c.syncOk

/-- `CFG_DP_OK`. -/
def dpOk : Bool :=
  c.frameOk && decide (1 ≤ c.ZSeff) && decide (c.ZSeff ≤ 2047) && decide ((c.ZBASE : Int) + c.ZSeff ≤ c.FLEN) &&
    decide (1 ≤ c.WC) && decide (c.WC ≤ Config.slCells)

/-! ### Marker, virtual channels and allow-list -/

/-- `MK[j]`, byte `j` of the sync marker in stream order (R40). -/
def MK (j : Nat) : Byte := if j < 4 then wordByte c.marker0 j else wordByte c.marker1 (j - 4)

/-- `VC_OK(v)`, the enable bit of VCID `v` (R61). -/
def vcOk (v : Nat) : Bool := if v < 32 then c.vcidMask0.getLsbD v else c.vcidMask1.getLsbD (v - 32)

/-- `APID_OK(a)`: some enabled entry of the allow-list holds `a` (R62). -/
def apidOk (a : BitVec 11) : Bool := c.apid.toList.any fun e => e.v && e.apid == a

end CfgRegs

/-! ### The frame in `FB` (R310, R342) -/

/-- The VCDU identifier word `BE16(FB[S], FB[S+1])` (R52). -/
def State.vcduWord (s : State) : BitVec 16 := be16 (s.fb s.cfg.S) (s.fb (s.cfg.S + 1))

/-- `VCID = FB[S+1] & 0x3F` (R342). -/
def State.vcid (s : State) : Nat := ((s.fb (s.cfg.S + 1)).extractLsb' 0 6).toNat

/-- `FHP = BE16(FB[S+H], FB[S+H+1]) & 0x7FF` (R342). -/
def State.fhp (s : State) : BitVec 11 :=
  (be16 (s.fb (s.cfg.S + s.cfg.H)) (s.fb (s.cfg.S + s.cfg.H + 1))).extractLsb' 0 11

/-- `Z[k] = FB[ZBASE + k]` (R68). -/
def State.zone (s : State) (k : Nat) : Byte := s.fb (s.cfg.ZBASE + k)

/-- The frame in `FB` is matching: `VC_OK(VCID)` (R342). -/
def State.matching (s : State) : Bool := s.cfg.vcOk s.vcid

/-- The symbol at position `p` of interleave `il`: `FB[S + p*I + il]` (R230). -/
def State.symbolIndex (s : State) (il p : Nat) : Nat := s.cfg.S + p * s.cfg.I + il

end Sys2Proof.Machine
end

