-- ==== Sys2Proof/Machine/Flags.lean ====
section
/-! DEFINITION. Every flag computation: the stream flags of `STATUS` (R34), the views of the DP state in it, its
32-bit value, the interrupt line (R510), and the first-cause rule of `RS_STAGE` (R232). -/

namespace Sys2Proof.Machine

/-- The code number of R502. -/
def ErrCode.bits : ErrCode → BitVec 4
  | .ok => 0
  | .illegal => 1
  | .cfg => 2
  | .range => 3
  | .divZero => 4
  | .seq => 5

/-- `STATE` as `DP_STATE` shows it (R63). -/
def DpPhase.bits : DpPhase → BitVec 2
  | .seek => 0
  | .inPkt => 1
  | .span => 2
  | .lineDone => 3

/-- Writes the four stream flags (R34). -/
def State.setStreamFlags (s : State) (eos short found lockMiss : Bool) : State :=
  { s with status := { s.status with eos := eos, short := short, found := found, lockMiss := lockMiss } }

/-- Writes `STATUS.FRAME_VALID` (R315). -/
def State.setFrameValid (s : State) (v : Bool) : State := { s with status := { s.status with frameValid := v } }

/-- `STATUS.LINE_READY`: the DP state is LINE_DONE (R34). -/
def State.lineReady (s : State) : Bool := decide (s.dp.phase = .lineDone)

/-- The 32-bit value of `STATUS` (R34), from bit 31 down. -/
def State.statusWord (s : State) : Word :=
  let st := s.status
  0#16 ++ BitVec.ofBool st.log0 ++ BitVec.ofBool s.dp.inc ++ BitVec.ofBool s.lineReady ++ BitVec.ofBool st.lockMiss ++
    BitVec.ofBool st.frameValid ++ BitVec.ofBool st.found ++ BitVec.ofBool st.short ++ BitVec.ofBool st.eos ++
    st.errcode.bits ++ 0#1 ++ BitVec.ofBool st.err ++ BitVec.ofBool st.done ++ BitVec.ofBool st.busy

/-- The interrupt output, a level (R510). -/
def State.irq (s : State) : Bool :=
  (s.status.done && s.cfg.irqEn.doneIe) || (s.status.err && s.cfg.irqEn.errIe) || (s.lineReady && s.cfg.irqEn.lineIe)

/-- `flag(c)`: records only the first cause found for the current codeword (R232). -/
def RsStage.flag (c : BitVec 2) (st : RsStage) : RsStage :=
  if st.uncorr then st else { st with uncorr := true, cause := c }

/-- Raises `flag(c)` when `raised` holds. -/
def RsStage.flagIf (raised : Bool) (c : BitVec 2) (st : RsStage) : RsStage := if raised then st.flag c else st

end Sys2Proof.Machine
end

