-- ==== Sys2Proof/Machine/Tables.lean ====
section
/-! DEFINITION. The fixed tables of the CORE as the spec lists them: the GF(256) antilog and log tables in both
bases (R201 to R204) and the PN mask (R281). Row `r` of a list holds entries `16*r` to `16*r + 15`. -/

namespace Sys2Proof.Machine

/-- Entry `i` of a table laid out in rows of 16. -/
def tableEntry (rows : List (List Nat)) (i : Nat) : Nat := (rows.getD (i / 16) []).getD (i % 16) 0

/-- `ALOG_0`, the normal-basis antilog table (R201). -/
def alog0Rows : List (List Nat) :=
  [ [0x01, 0x02, 0x04, 0x08, 0x10, 0x20, 0x40, 0x80, 0x87, 0x89, 0x95, 0xAD, 0xDD, 0x3D, 0x7A, 0xF4],
    [0x6F, 0xDE, 0x3B, 0x76, 0xEC, 0x5F, 0xBE, 0xFB, 0x71, 0xE2, 0x43, 0x86, 0x8B, 0x91, 0xA5, 0xCD],
    [0x1D, 0x3A, 0x74, 0xE8, 0x57, 0xAE, 0xDB, 0x31, 0x62, 0xC4, 0x0F, 0x1E, 0x3C, 0x78, 0xF0, 0x67],
    [0xCE, 0x1B, 0x36, 0x6C, 0xD8, 0x37, 0x6E, 0xDC, 0x3F, 0x7E, 0xFC, 0x7F, 0xFE, 0x7B, 0xF6, 0x6B],
    [0xD6, 0x2B, 0x56, 0xAC, 0xDF, 0x39, 0x72, 0xE4, 0x4F, 0x9E, 0xBB, 0xF1, 0x65, 0xCA, 0x13, 0x26],
    [0x4C, 0x98, 0xB7, 0xE9, 0x55, 0xAA, 0xD3, 0x21, 0x42, 0x84, 0x8F, 0x99, 0xB5, 0xED, 0x5D, 0xBA],
    [0xF3, 0x61, 0xC2, 0x03, 0x06, 0x0C, 0x18, 0x30, 0x60, 0xC0, 0x07, 0x0E, 0x1C, 0x38, 0x70, 0xE0],
    [0x47, 0x8E, 0x9B, 0xB1, 0xE5, 0x4D, 0x9A, 0xB3, 0xE1, 0x45, 0x8A, 0x93, 0xA1, 0xC5, 0x0D, 0x1A] ] ++
  [ [0x34, 0x68, 0xD0, 0x27, 0x4E, 0x9C, 0xBF, 0xF9, 0x75, 0xEA, 0x53, 0xA6, 0xCB, 0x11, 0x22, 0x44],
    [0x88, 0x97, 0xA9, 0xD5, 0x2D, 0x5A, 0xB4, 0xEF, 0x59, 0xB2, 0xE3, 0x41, 0x82, 0x83, 0x81, 0x85],
    [0x8D, 0x9D, 0xBD, 0xFD, 0x7D, 0xFA, 0x73, 0xE6, 0x4B, 0x96, 0xAB, 0xD1, 0x25, 0x4A, 0x94, 0xAF],
    [0xD9, 0x35, 0x6A, 0xD4, 0x2F, 0x5E, 0xBC, 0xFF, 0x79, 0xF2, 0x63, 0xC6, 0x0B, 0x16, 0x2C, 0x58],
    [0xB0, 0xE7, 0x49, 0x92, 0xA3, 0xC1, 0x05, 0x0A, 0x14, 0x28, 0x50, 0xA0, 0xC7, 0x09, 0x12, 0x24],
    [0x48, 0x90, 0xA7, 0xC9, 0x15, 0x2A, 0x54, 0xA8, 0xD7, 0x29, 0x52, 0xA4, 0xCF, 0x19, 0x32, 0x64],
    [0xC8, 0x17, 0x2E, 0x5C, 0xB8, 0xF7, 0x69, 0xD2, 0x23, 0x46, 0x8C, 0x9F, 0xB9, 0xF5, 0x6D, 0xDA],
    [0x33, 0x66, 0xCC, 0x1F, 0x3E, 0x7C, 0xF8, 0x77, 0xEE, 0x5B, 0xB6, 0xEB, 0x51, 0xA2, 0xC3, 0x01] ]

/-- `LOG_0`, the normal-basis log table (R202). -/
def log0Rows : List (List Nat) :=
  [ [0x00, 0x00, 0x01, 0x63, 0x02, 0xC6, 0x64, 0x6A, 0x03, 0xCD, 0xC7, 0xBC, 0x65, 0x7E, 0x6B, 0x2A],
    [0x04, 0x8D, 0xCE, 0x4E, 0xC8, 0xD4, 0xBD, 0xE1, 0x66, 0xDD, 0x7F, 0x31, 0x6C, 0x20, 0x2B, 0xF3],
    [0x05, 0x57, 0x8E, 0xE8, 0xCF, 0xAC, 0x4F, 0x83, 0xC9, 0xD9, 0xD5, 0x41, 0xBE, 0x94, 0xE2, 0xB4],
    [0x67, 0x27, 0xDE, 0xF0, 0x80, 0xB1, 0x32, 0x35, 0x6D, 0x45, 0x21, 0x12, 0x2C, 0x0D, 0xF4, 0x38],
    [0x06, 0x9B, 0x58, 0x1A, 0x8F, 0x79, 0xE9, 0x70, 0xD0, 0xC2, 0xAD, 0xA8, 0x50, 0x75, 0x84, 0x48],
    [0xCA, 0xFC, 0xDA, 0x8A, 0xD6, 0x54, 0x42, 0x24, 0xBF, 0x98, 0x95, 0xF9, 0xE3, 0x5E, 0xB5, 0x15],
    [0x68, 0x61, 0x28, 0xBA, 0xDF, 0x4C, 0xF1, 0x2F, 0x81, 0xE6, 0xB2, 0x3F, 0x33, 0xEE, 0x36, 0x10],
    [0x6E, 0x18, 0x46, 0xA6, 0x22, 0x88, 0x13, 0xF7, 0x2D, 0xB8, 0x0E, 0x3D, 0xF5, 0xA4, 0x39, 0x3B] ] ++
  [ [0x07, 0x9E, 0x9C, 0x9D, 0x59, 0x9F, 0x1B, 0x08, 0x90, 0x09, 0x7A, 0x1C, 0xEA, 0xA0, 0x71, 0x5A],
    [0xD1, 0x1D, 0xC3, 0x7B, 0xAE, 0x0A, 0xA9, 0x91, 0x51, 0x5B, 0x76, 0x72, 0x85, 0xA1, 0x49, 0xEB],
    [0xCB, 0x7C, 0xFD, 0xC4, 0xDB, 0x1E, 0x8B, 0xD2, 0xD7, 0x92, 0x55, 0xAA, 0x43, 0x0B, 0x25, 0xAF],
    [0xC0, 0x73, 0x99, 0x77, 0x96, 0x5C, 0xFA, 0x52, 0xE4, 0xEC, 0x5F, 0x4A, 0xB6, 0xA2, 0x16, 0x86],
    [0x69, 0xC5, 0x62, 0xFE, 0x29, 0x7D, 0xBB, 0xCC, 0xE0, 0xD3, 0x4D, 0x8C, 0xF2, 0x1F, 0x30, 0xDC],
    [0x82, 0xAB, 0xE7, 0x56, 0xB3, 0x93, 0x40, 0xD8, 0x34, 0xB0, 0xEF, 0x26, 0x37, 0x0C, 0x11, 0x44],
    [0x6F, 0x78, 0x19, 0x9A, 0x47, 0x74, 0xA7, 0xC1, 0x23, 0x53, 0x89, 0xFB, 0x14, 0x5D, 0xF8, 0x97],
    [0x2E, 0x4B, 0xB9, 0x60, 0x0F, 0xED, 0x3E, 0xE5, 0xF6, 0x87, 0xA5, 0x17, 0x3A, 0xA3, 0x3C, 0xB7] ]

/-- `ALOG_1`, the dual-basis antilog table (R203). -/
def alog1Rows : List (List Nat) :=
  [ [0x7B, 0xAF, 0x99, 0xFA, 0x86, 0xEC, 0xEF, 0x8D, 0xC0, 0x0C, 0xE9, 0x79, 0xFC, 0x72, 0xD0, 0x91],
    [0xB4, 0x28, 0x44, 0xB3, 0xED, 0xDE, 0x2B, 0x26, 0xFE, 0x21, 0x3B, 0xBB, 0xA3, 0x70, 0x83, 0x7A],
    [0x9E, 0x3F, 0x1C, 0x74, 0x24, 0xAD, 0xCA, 0x11, 0xAC, 0xFB, 0xB7, 0x4A, 0x09, 0x7F, 0x08, 0x4E],
    [0xAE, 0xA8, 0x5C, 0x60, 0x1E, 0x27, 0xCF, 0x87, 0xDD, 0x49, 0x6B, 0x32, 0xC4, 0xAB, 0x3E, 0x2D],
    [0xD2, 0xC2, 0x5F, 0x02, 0x53, 0xEB, 0x2A, 0x17, 0x58, 0xC7, 0xC9, 0x73, 0xE1, 0x37, 0x52, 0xDA],
    [0x8C, 0xF1, 0xAA, 0x0F, 0x8B, 0x34, 0x30, 0x97, 0x40, 0x14, 0x3A, 0x8A, 0x05, 0x96, 0x71, 0xB2],
    [0xDC, 0x78, 0xCD, 0xD4, 0x36, 0x63, 0x7C, 0x6A, 0x03, 0x62, 0x4D, 0xCC, 0xE5, 0x90, 0x85, 0x8E],
    [0xA2, 0x41, 0x25, 0x9C, 0x6C, 0xF7, 0x5E, 0x33, 0xF5, 0x0D, 0xD8, 0xDF, 0x1A, 0x80, 0x18, 0xD3] ] ++
  [ [0xF3, 0xF9, 0xE4, 0xA1, 0x23, 0x68, 0x50, 0x89, 0x67, 0xDB, 0xBD, 0x57, 0x4C, 0xFD, 0x43, 0x76],
    [0x77, 0x46, 0xE0, 0x06, 0xF4, 0x3C, 0x7E, 0x39, 0xE8, 0x48, 0x5A, 0x94, 0x22, 0x59, 0xF6, 0x6F],
    [0x95, 0x13, 0xFF, 0x10, 0x9D, 0x5D, 0x51, 0xB8, 0xC1, 0x3D, 0x4F, 0x9F, 0x0E, 0xBA, 0x92, 0xD6],
    [0x65, 0x88, 0x56, 0x7D, 0x5B, 0xA5, 0x84, 0xBF, 0x04, 0xA7, 0xD7, 0x54, 0x2E, 0xB0, 0x8F, 0x93],
    [0xE7, 0xC3, 0x6E, 0xA4, 0xB5, 0x19, 0xE2, 0x55, 0x1F, 0x16, 0x69, 0x61, 0x2F, 0x81, 0x29, 0x75],
    [0x15, 0x0B, 0x2C, 0xE3, 0x64, 0xB9, 0xF0, 0x9B, 0xA9, 0x6D, 0xC6, 0xF8, 0xD5, 0x07, 0xC5, 0x9A],
    [0x98, 0xCB, 0x20, 0x0A, 0x1D, 0x45, 0x82, 0x4B, 0x38, 0xD9, 0xEE, 0xBC, 0x66, 0xEA, 0x1B, 0xB1],
    [0xBE, 0x35, 0x01, 0x31, 0xA6, 0xE6, 0xF2, 0xC8, 0x42, 0x47, 0xD1, 0xA0, 0x12, 0xCE, 0xB6, 0x7B] ]

/-- `LOG_1`, the dual-basis log table (R204). -/
def log1Rows : List (List Nat) :=
  [ [0x00, 0xF2, 0x43, 0x68, 0xB8, 0x5C, 0x93, 0xDD, 0x2E, 0x2C, 0xE3, 0xD1, 0x09, 0x79, 0xAC, 0x53],
    [0xA3, 0x27, 0xFC, 0xA1, 0x59, 0xD0, 0xC9, 0x47, 0x7E, 0xC5, 0x7C, 0xEE, 0x22, 0xE4, 0x34, 0xC8],
    [0xE2, 0x19, 0x9C, 0x84, 0x24, 0x72, 0x17, 0x35, 0x11, 0xCE, 0x46, 0x16, 0xD2, 0x3F, 0xBC, 0xCC],
    [0x56, 0xF3, 0x3B, 0x77, 0x55, 0xF1, 0x64, 0x4D, 0xE8, 0x97, 0x5A, 0x1A, 0x95, 0xA9, 0x3E, 0x21],
    [0x58, 0x71, 0xF8, 0x8E, 0x12, 0xE5, 0x91, 0xF9, 0x99, 0x39, 0x2B, 0xE7, 0x8C, 0x6A, 0x2F, 0xAA],
    [0x86, 0xA6, 0x4E, 0x44, 0xBB, 0xC7, 0xB2, 0x8B, 0x48, 0x9D, 0x9A, 0xB4, 0x32, 0xA5, 0x76, 0x42],
    [0x33, 0xCB, 0x69, 0x65, 0xD4, 0xB0, 0xEC, 0x88, 0x85, 0xCA, 0x67, 0x3A, 0x74, 0xD9, 0xC2, 0x9F],
    [0x1D, 0x5E, 0x0D, 0x4B, 0x23, 0xCF, 0x8F, 0x90, 0x61, 0x0B, 0x1F, 0x00, 0x66, 0xB3, 0x96, 0x2D] ] ++
  [ [0x7D, 0xCD, 0xE6, 0x1E, 0xB6, 0x6E, 0x04, 0x37, 0xB1, 0x87, 0x5B, 0x54, 0x50, 0x07, 0x6F, 0xBE],
    [0x6D, 0x0F, 0xAE, 0xBF, 0x9B, 0xA0, 0x5D, 0x57, 0xE0, 0x02, 0xDF, 0xD7, 0x73, 0xA4, 0x20, 0xAB],
    [0xFB, 0x83, 0x70, 0x1C, 0xC3, 0xB5, 0xF4, 0xB9, 0x31, 0xD8, 0x52, 0x3D, 0x28, 0x25, 0x30, 0x01],
    [0xBD, 0xEF, 0x5F, 0x13, 0x10, 0xC4, 0xFE, 0x2A, 0xA7, 0xD5, 0xAD, 0x1B, 0xEB, 0x8A, 0xF0, 0xB7],
    [0x08, 0xA8, 0x41, 0xC1, 0x3C, 0xDE, 0xDA, 0x49, 0xF7, 0x4A, 0x26, 0xE1, 0x6B, 0x62, 0xFD, 0x36],
    [0x0E, 0xFA, 0x40, 0x7F, 0x63, 0xDC, 0xAF, 0xBA, 0x7A, 0xE9, 0x4F, 0x89, 0x60, 0x38, 0x15, 0x7B],
    [0x92, 0x4C, 0xC6, 0xD3, 0x82, 0x6C, 0xF5, 0xC0, 0x98, 0x0A, 0xED, 0x45, 0x05, 0x14, 0xEA, 0x06],
    [0xD6, 0x51, 0xF6, 0x80, 0x94, 0x78, 0x9E, 0x75, 0xDB, 0x81, 0x03, 0x29, 0x0C, 0x8D, 0x18, 0xA2] ]

/-- `PN[0 .. 254]`, one period of the PN mask (R281). -/
def pnRows : List (List Nat) :=
  [ [0xFF, 0x48, 0x0E, 0xC0, 0x9A, 0x0D, 0x70, 0xBC, 0x8E, 0x2C, 0x93, 0xAD, 0xA7, 0xB7, 0x46, 0xCE],
    [0x5A, 0x97, 0x7D, 0xCC, 0x32, 0xA2, 0xBF, 0x3E, 0x0A, 0x10, 0xF1, 0x88, 0x94, 0xCD, 0xEA, 0xB1],
    [0xFE, 0x90, 0x1D, 0x81, 0x34, 0x1A, 0xE1, 0x79, 0x1C, 0x59, 0x27, 0x5B, 0x4F, 0x6E, 0x8D, 0x9C],
    [0xB5, 0x2E, 0xFB, 0x98, 0x65, 0x45, 0x7E, 0x7C, 0x14, 0x21, 0xE3, 0x11, 0x29, 0x9B, 0xD5, 0x63],
    [0xFD, 0x20, 0x3B, 0x02, 0x68, 0x35, 0xC2, 0xF2, 0x38, 0xB2, 0x4E, 0xB6, 0x9E, 0xDD, 0x1B, 0x39],
    [0x6A, 0x5D, 0xF7, 0x30, 0xCA, 0x8A, 0xFC, 0xF8, 0x28, 0x43, 0xC6, 0x22, 0x53, 0x37, 0xAA, 0xC7],
    [0xFA, 0x40, 0x76, 0x04, 0xD0, 0x6B, 0x85, 0xE4, 0x71, 0x64, 0x9D, 0x6D, 0x3D, 0xBA, 0x36, 0x72],
    [0xD4, 0xBB, 0xEE, 0x61, 0x95, 0x15, 0xF9, 0xF0, 0x50, 0x87, 0x8C, 0x44, 0xA6, 0x6F, 0x55, 0x8F] ] ++
  [ [0xF4, 0x80, 0xEC, 0x09, 0xA0, 0xD7, 0x0B, 0xC8, 0xE2, 0xC9, 0x3A, 0xDA, 0x7B, 0x74, 0x6C, 0xE5],
    [0xA9, 0x77, 0xDC, 0xC3, 0x2A, 0x2B, 0xF3, 0xE0, 0xA1, 0x0F, 0x18, 0x89, 0x4C, 0xDE, 0xAB, 0x1F],
    [0xE9, 0x01, 0xD8, 0x13, 0x41, 0xAE, 0x17, 0x91, 0xC5, 0x92, 0x75, 0xB4, 0xF6, 0xE8, 0xD9, 0xCB],
    [0x52, 0xEF, 0xB9, 0x86, 0x54, 0x57, 0xE7, 0xC1, 0x42, 0x1E, 0x31, 0x12, 0x99, 0xBD, 0x56, 0x3F],
    [0xD2, 0x03, 0xB0, 0x26, 0x83, 0x5C, 0x2F, 0x23, 0x8B, 0x24, 0xEB, 0x69, 0xED, 0xD1, 0xB3, 0x96],
    [0xA5, 0xDF, 0x73, 0x0C, 0xA8, 0xAF, 0xCF, 0x82, 0x84, 0x3C, 0x62, 0x25, 0x33, 0x7A, 0xAC, 0x7F],
    [0xA4, 0x07, 0x60, 0x4D, 0x06, 0xB8, 0x5E, 0x47, 0x16, 0x49, 0xD6, 0xD3, 0xDB, 0xA3, 0x67, 0x2D],
    [0x4B, 0xBE, 0xE6, 0x19, 0x51, 0x5F, 0x9F, 0x05, 0x08, 0x78, 0xC4, 0x4A, 0x66, 0xF5, 0x58] ]

end Sys2Proof.Machine
end

