-- ==== Sys2Proof/Machine/Gf.lean ====
section
/-! DEFINITION. The GF unit: the field operations of R205 to R207 in both bases, and the commands GF_LOG, GF_EXP,
GF_MUL and GF_DIV (R210 to R213). The basis is `RS_CFG.BASIS`: false is normal, true is dual. -/

namespace Sys2Proof.Machine

/-! ### Field operations -/

/-- `ALOG[e]` of a basis; the index of every antilog lookup is taken mod 255 (R201, R203). -/
def alog (basis : Bool) (e : Nat) : Byte :=
  BitVec.ofNat 8 (tableEntry (if basis then alog1Rows else alog0Rows) (e % 255))

/-- `LOG[x]` of a basis, with `LOG[0] = 0` (R202, R204). -/
def glog (basis : Bool) (x : Byte) : Nat := tableEntry (if basis then log1Rows else log0Rows) x.toNat

/-- `gexp(e)` (R207). -/
def gexp (basis : Bool) (e : Nat) : Byte := alog basis e

/-- `ONE = ALOG[0]`, the multiplicative identity of the basis (R14). -/
def gone (basis : Bool) : Byte := alog basis 0

/-- `gmul(a, c)` (R205). -/
def gmul (basis : Bool) (a c : Byte) : Byte :=
  if a = 0 ∨ c = 0 then 0 else alog basis ((glog basis a + glog basis c) % 255)

/-- `gdiv(a, c)`, defined for `c ≠ 0` (R206); every caller guarantees or tests that. -/
def gdiv (basis : Bool) (a c : Byte) : Byte :=
  if a = 0 then 0 else alog basis ((glog basis a + 255 - glog basis c) % 255)

/-- `ginv(x)`, the inverse of `x ≠ 0` (R207). -/
def ginv (basis : Bool) (x : Byte) : Byte := alog basis ((255 - glog basis x) % 255)

/-- `P(gexp(e))` for a polynomial of coefficients `p 0 .. p (n-1)`, lowest degree first (R14). -/
def polyEval (basis : Bool) (n : Nat) (p : Nat → Byte) (e : Nat) : Byte :=
  xorOver (List.range n) fun i => gmul basis (p i) (gexp basis (e * i))

/-- The basis of the configuration at the moment a command executes. -/
def State.basis (s : State) : Bool := s.cfg.rsCfg.basis

/-! ### Commands -/

/-- GF_LOG (R210). -/
def execGfLog (a : Byte) (s : State) : Host.Outcome State Fault Refusal :=
  runCommand []
    (fun s => { s with gfRes := BitVec.ofNat 8 (glog s.basis a), status := { s.status with log0 := decide (a = 0) } }) s

/-- GF_EXP (R211). -/
def execGfExp (a : Byte) (s : State) : Host.Outcome State Fault Refusal :=
  runCommand [] (fun s => { s with gfRes := gexp s.basis a.toNat }) s

/-- GF_MUL (R212). -/
def execGfMul (a b : Byte) (s : State) : Host.Outcome State Fault Refusal :=
  runCommand [] (fun s => { s with gfRes := gmul s.basis a b }) s

/-- GF_DIV (R213); a zero divisor ends with DIVZERO. -/
def execGfDiv (a b : Byte) (s : State) : Host.Outcome State Fault Refusal :=
  runCommand [(decide (b = 0), .divZero)] (fun s => { s with gfRes := gdiv s.basis a b }) s

end Sys2Proof.Machine
end

