-- ==== Sys2Proof/Machine/Rs.lean ====
section
/-! DEFINITION. The RS unit: the stage commands RS_SYN, RS_BM, RS_CHIEN, RS_FORNEY and RS_CORR (R240 to R248) and
the whole-frame decode RS_DECODE (R250). Each stage has a body, which RS_DECODE runs without its completion. -/

namespace Sys2Proof.Machine

/-- A scratch array of `n` bytes from the values of its entries. -/
def scratchOf (n : Nat) (f : Nat → Byte) : Vector Byte n := Vector.ofFn fun i => f i.val

/-- Writes the scratch arrays. -/
def State.setScratch (s : State) (x : Scratch) : State := { s with rs := { s.rs with scratch := x } }

/-- Writes `RS_STAGE`. -/
def State.setStage (s : State) (x : RsStage) : State := { s with rs := { s.rs with stage := x } }

/-- `SYN[i]`. -/
def State.syn (s : State) (i : Nat) : Byte := s.rs.scratch.syn.getD i 0

/-- `SIGMA[i]`. -/
def State.sigma (s : State) (i : Nat) : Byte := s.rs.scratch.sigma.getD i 0

/-- `OMEGA[i]`. -/
def State.omega (s : State) (i : Nat) : Byte := s.rs.scratch.omega.getD i 0

/-- `LOC[i]`. -/
def State.loc (s : State) (i : Nat) : Byte := s.rs.scratch.loc.getD i 0

/-- `MAG[i]`. -/
def State.mag (s : State) (i : Nat) : Byte := s.rs.scratch.mag.getD i 0

/-! ### RS_SYN (R240) -/

/-- One syndrome component: Horner's rule over the codeword's symbols in stream order, at the root
`gexp(POA * (MO + i))` (R231, R240). -/
def State.syndrome (s : State) (il i : Nat) : Byte :=
  (List.range s.cfg.NSYM).foldl
    (fun acc p => gmul s.basis acc (gexp s.basis (s.cfg.POA * (s.cfg.MO + i))) ^^^ s.fb (s.symbolIndex il p)) 0

/-- The body of RS_SYN (R240). -/
def rsSynBody (il : Nat) (s : State) : State :=
  let syn := scratchOf 32 fun i => if i < 2 * s.cfg.T then s.syndrome il i else 0
  (s.setScratch { s.rs.scratch with syn := syn }).setStage
    { l := 0, nloc := 0, uncorr := false, cause := 0,
      synNz := (List.range (2 * s.cfg.T)).any fun i => decide (syn.getD i 0 ≠ 0), il := BitVec.ofNat 3 il }

/-! ### RS_BM (R242) -/

/-- The local state of the Berlekamp-Massey loop: `sig`, `D` and `L`, coefficients lowest degree first (R242). -/
structure BmState where
  sig : List Byte
  d : List Byte
  l : Nat
  deriving DecidableEq, Repr

/-- `D(z) <- z * D(z)`, the top entry dropped (R242). -/
def bmShift (d : List Byte) : List Byte := 0 :: d.dropLast

/-- The loop's start: `sigma(z) = 1`, `D(z) = z`, `L = 0`, arrays of `2T + 2` entries (R242). -/
def bmInit (basis : Bool) (t : Nat) : BmState where
  sig := gone basis :: List.replicate (2 * t + 1) 0
  d := 0 :: gone basis :: List.replicate (2 * t) 0
  l := 0

/-- The discrepancy `delta` at step `k` (R242). -/
def bmDelta (basis : Bool) (syn : Nat → Byte) (k : Nat) (b : BmState) : Byte :=
  xorOver (List.range (b.l + 1)) fun i => gmul basis (b.sig.getD i 0) (syn (k - 1 - i))

/-- One turn of the loop, for `k` in `1 .. 2T` (R242). -/
def bmStep (basis : Bool) (syn : Nat → Byte) (b : BmState) (k : Nat) : BmState :=
  let delta := bmDelta basis syn k b
  if delta = 0 then { b with d := bmShift b.d }
  else
    let new := List.zipWith (fun sj dj => sj ^^^ gmul basis delta dj) b.sig b.d
    if 2 * b.l < k then { sig := new, d := bmShift (b.sig.map fun sj => gdiv basis sj delta), l := k - b.l }
    else { sig := new, d := bmShift b.d, l := b.l }

/-- The loop after its `2T` turns (R242). -/
def bmRun (basis : Bool) (t : Nat) (syn : Nat → Byte) : BmState :=
  (List.range (2 * t)).foldl (fun b k => bmStep basis syn b (k + 1)) (bmInit basis t)

/-- The body of RS_BM (R242). -/
def rsBmBody (s : State) : State :=
  let b := bmRun s.basis s.cfg.T s.syn
  (s.setScratch { s.rs.scratch with
      sigma := scratchOf 34 fun j => if j ≤ 2 * s.cfg.T then b.sig.getD j 0 else 0 }).setStage
    ({ s.rs.stage with l := BitVec.ofNat 6 b.l }.flagIf (decide (s.cfg.T < b.l)) 1)

/-! ### RS_CHIEN (R244) -/

/-- `xe`, the exponent of `X_l^-1` for a location `l` (R244, R246). -/
def CfgRegs.invExp (c : CfgRegs) (l : Nat) : Nat := (255 - c.POA * l % 255) % 255

/-- `sigma(X_l^-1)` (R244). -/
def State.sigmaAt (s : State) (l : Nat) : Byte := polyEval s.basis (2 * s.cfg.T + 1) s.sigma (s.cfg.invExp l)

/-- The locations at which the locator vanishes, in stream order (R244, R245). -/
def State.roots (s : State) : List Nat :=
  ((List.range s.cfg.NSYM).map fun p => 254 - s.cfg.VF - p).filter fun l => decide (s.sigmaAt l = 0)

/-- The body of RS_CHIEN (R244). -/
def rsChienBody (s : State) : State :=
  let roots := s.roots
  (s.setScratch { s.rs.scratch with loc := scratchOf 32 fun k => BitVec.ofNat 8 (roots.getD k 0) }).setStage
    ({ s.rs.stage with nloc := BitVec.ofNat 8 roots.length }.flagIf
      (decide (roots.length ≠ s.rs.stage.l.toNat)) 2)

/-! ### RS_FORNEY (R246) -/

/-- Entry `i < 2T` of the error evaluator `sigma(z) * S(z) mod z^2T` (R246). -/
def State.evaluator (s : State) (i : Nat) : Byte :=
  xorOver (List.range (i + 1)) fun j => gmul s.basis (s.sigma j) (s.syn (i - j))

/-- `den = sigma'(X_l^-1)`: the odd coefficients of the locator (R246). -/
def State.derivAt (s : State) (l : Nat) : Byte :=
  xorOver ((List.range (2 * s.cfg.T + 1)).filter fun i => i % 2 = 1) fun i =>
    gmul s.basis (s.sigma i) (gexp s.basis (s.cfg.invExp l * (i - 1)))

/-- `num = Omega(X_l^-1)`, from the evaluator's `2T` coefficients (R246). -/
def State.evaluatorAt (s : State) (l : Nat) : Byte :=
  polyEval s.basis (2 * s.cfg.T) s.evaluator (s.cfg.invExp l)

/-- The exponent `(LOG[num] - LOG[den] + (POA*l mod 255) * ((1 - MO) mod 255)) mod 255` (R246, R247). -/
def magExp (basis : Bool) (c : CfgRegs) (num den : Byte) (l : Nat) : Nat :=
  (((glog basis num : Int) - (glog basis den : Int) +
    ((c.POA * l % 255 : Nat) : Int) * ((1 - (c.MO : Int)) % 255)) % 255).toNat

/-- The error magnitude at a location (R246). -/
def State.magnitude (s : State) (l : Nat) : Byte :=
  let num := s.evaluatorAt l
  let den := s.derivAt l
  if den = 0 then 0 else if num = 0 then 0 else gexp s.basis (magExp s.basis s.cfg num den l)

/-- How many entries of `LOC` RS_FORNEY and RS_CORR use: `min(NLOC, 32)` (R246, R248). -/
def State.locCount (s : State) : Nat := min s.rs.stage.nloc.toNat 32

/-- The body of RS_FORNEY (R246). -/
def rsForneyBody (s : State) : State :=
  (s.setScratch { s.rs.scratch with
      omega := scratchOf 32 fun i => if i < 2 * s.cfg.T then s.evaluator i else 0,
      mag := scratchOf 32 fun k => if k < s.locCount then s.magnitude (s.loc k).toNat else 0 }).setStage
    (s.rs.stage.flagIf ((List.range s.locCount).any fun k => decide (s.derivAt (s.loc k).toNat = 0)) 3)

/-! ### RS_CORR (R248) -/

/-- Applies magnitude `k`: `FB[S + p*I + IL] ^= MAG[k]` with `p = 254 - LOC[k] - VF`, where `p` is a position of
the codeword (R248). -/
def corrOne (il : Nat) (s : State) (k : Nat) : State :=
  let l := (s.loc k).toNat
  if l + s.cfg.VF ≤ 254 then
    let i := s.symbolIndex il (254 - l - s.cfg.VF)
    s.setFb i (s.fb i ^^^ s.mag k)
  else s

/-- The body of RS_CORR (R248): nothing when the codeword is uncorrectable. -/
def rsCorrBody (il : Nat) (s : State) : State :=
  if s.rs.stage.uncorr then s else (List.range s.locCount).foldl (corrOne il) s

/-! ### RS_DECODE (R250) -/

/-- Writes `RS_ILk`. -/
def State.setIl (s : State) (k : Nat) (x : RsIl) : State :=
  { s with rs := { s.rs with ils := s.rs.ils.setIfInBounds k x } }

/-- The stages after RS_SYN on a codeword with a non-zero syndrome, each run while `UNCORR` is 0 (R250). -/
def correctCodeword (il : Nat) (s : State) : State :=
  let s := rsBmBody s
  let s := if s.rs.stage.uncorr then s else rsChienBody s
  let s := if s.rs.stage.uncorr then s else rsForneyBody s
  rsCorrBody il s

/-- The running totals of RS_DECODE: `corr`, `unc`, `allclean` (R250). -/
structure DecodeAcc where
  st : State
  corr : Nat
  unc : Nat
  allClean : Bool
  deriving DecidableEq, Repr

/-- One interleave of RS_DECODE (R250). -/
def decodeIl (a : DecodeAcc) (il : Nat) : DecodeAcc :=
  let s := rsSynBody il a.st
  if s.rs.stage.synNz then
    let s := correctCodeword il s
    if s.rs.stage.uncorr then
      { st := s.setIl il ⟨0, true, false⟩, corr := a.corr, unc := a.unc + 1, allClean := false }
    else
      { st := s.setIl il ⟨s.rs.stage.l.setWidth 5, false, false⟩, corr := a.corr + s.rs.stage.l.toNat,
        unc := a.unc, allClean := false }
  else { a with st := s.setIl il ⟨0, false, true⟩ }

/-- Every interleave in order (R250). -/
def decodeAll (s : State) : DecodeAcc := (List.range s.cfg.I).foldl decodeIl ⟨s, 0, 0, true⟩

/-- The body of RS_DECODE (R250). -/
def rsDecodeBody (s : State) : State :=
  let a := decodeAll s
  let t := a.st
  { t with rs := { t.rs with
      ils := Vector.ofFn fun k => if k.val < s.cfg.I then t.rs.ils[k] else ⟨0, false, false⟩,
      result := ⟨BitVec.ofNat 8 a.corr, BitVec.ofNat 4 a.unc, a.allClean⟩,
      totCorr := t.rs.totCorr + BitVec.ofNat 32 a.corr,
      totUnc := t.rs.totUnc + BitVec.ofNat 32 a.unc,
      totFrames := t.rs.totFrames + 1 } }

/-! ### Commands -/

/-- RS_SYN (R240). -/
def execRsSyn (il : Nat) (s : State) : Host.Outcome State Fault Refusal :=
  runCommand [(!s.cfg.frameOk, .cfg), (decide (s.cfg.I ≤ il), .range)] (rsSynBody il) s

/-- RS_BM (R242). -/
def execRsBm (s : State) : Host.Outcome State Fault Refusal := runCommand [(!s.cfg.rsOk, .cfg)] rsBmBody s

/-- RS_CHIEN (R244). -/
def execRsChien (s : State) : Host.Outcome State Fault Refusal := runCommand [(!s.cfg.rsOk, .cfg)] rsChienBody s

/-- RS_FORNEY (R246). -/
def execRsForney (s : State) : Host.Outcome State Fault Refusal := runCommand [(!s.cfg.rsOk, .cfg)] rsForneyBody s

/-- RS_CORR (R248). -/
def execRsCorr (il : Nat) (s : State) : Host.Outcome State Fault Refusal :=
  runCommand [(!s.cfg.frameOk, .cfg), (decide (s.cfg.I ≤ il), .range)] (rsCorrBody il) s

/-- RS_DECODE (R250). -/
def execRsDecode (s : State) : Host.Outcome State Fault Refusal :=
  runCommand [(!s.cfg.frameOk, .cfg)] rsDecodeBody s

end Sys2Proof.Machine
end

