-- ==== Sys2Proof/Machine/Derand.lean ====
section
/-! DEFINITION. The DR unit: the PN generator (R280), its mask (R281) and the command DR_APPLY (R283). -/

namespace Sys2Proof.Machine

/-- One step of the PN register (R280): the feedback of stages 0, 3, 5 and 7 enters at bit 7. -/
def pnShift (r : Byte) : Byte :=
  let fb := r.getLsbD 0 ^^ r.getLsbD 3 ^^ r.getLsbD 5 ^^ r.getLsbD 7
  BitVec.ofBool fb ++ r.extractLsb' 1 7

/-- The register after `n` steps from the all-ones seed (R280). -/
def pnReg : Nat → Byte
  | 0 => 0xFF
  | n + 1 => pnShift (pnReg n)

/-- Mask byte `k` as R280 generates it: mask bits `8k .. 8k+7`, the first in bit 7. The hardware's mask is
`pnByte`; R281 says they are equal. -/
def pnGenerated (k : Nat) : Byte :=
  BitVec.ofBoolListBE ((List.range 8).map fun j => (pnReg (8 * k + j)).getLsbD 0) |>.setWidth 8

/-- `PN[k]`, with period 255 bytes (R281). -/
def pnByte (k : Nat) : Byte := BitVec.ofNat 8 (tableEntry pnRows (k % 255))

/-- The body of DR_APPLY (R283): the mask covers `FB[S .. FLEN-1]` and restarts at `PN[0]` (R282). -/
def drApplyBody (s : State) : State :=
  (List.range (s.cfg.FLEN - s.cfg.S)).foldl
    (fun s k => s.setFb (s.cfg.S + k) (s.fb (s.cfg.S + k) ^^^ pnByte k)) s

/-- DR_APPLY (R283). -/
def execDrApply (s : State) : Host.Outcome State Fault Refusal := runCommand [(!s.cfg.frameOk, .cfg)] drApplyBody s

end Sys2Proof.Machine
end

