-- ==== Sys2Proof/Machine/Sync.lean ====
section
/-! DEFINITION. The SYNC unit: the marker search (R290) and the commands SYNC_FIND (R291) and SYNC_SKIP (R293). -/

namespace Sys2Proof.Machine

/-- `IN_LEN` as a count of stream bytes (R42). -/
def State.inLen (s : State) : Nat := s.stream.inLen.toNat

/-- `RDPTR` as a stream offset (R43). -/
def State.rdptr (s : State) : Nat := s.stream.rdptr.toNat

/-- The search loop of R290 over the next `n` stream bytes, at offset `q` with partial-match index `idx`. -/
def searchFrom (s : State) : Nat → Nat → Nat → Option Nat
  | 0, _, _ => none
  | n + 1, q, idx =>
    let b := s.inByte q
    if b = s.cfg.MK idx then
      if idx + 1 = s.cfg.S then some (q + 1) else searchFrom s n (q + 1) (idx + 1)
    else searchFrom s n (q + 1) (if b = s.cfg.MK 0 then 1 else 0)

/-- `find(q0)` (R290): the stream ends at `IN_LEN`, and the partial-match index starts at 0 (R87). -/
def State.find (s : State) (q0 : Nat) : Option Nat := searchFrom s (s.inLen - q0) q0 0

/-- Writes `RDPTR`. -/
def State.setRdptr (s : State) (q : Nat) : State := { s with stream := { s.stream with rdptr := BitVec.ofNat 17 q } }

/-- Writes `SYNC_OFF` (R44). -/
def State.setSyncOff (s : State) (q : Nat) : State :=
  { s with stream := { s.stream with syncOff := BitVec.ofNat 17 q } }

/-- Counts one sync hit in `SYNC_COUNT` (R45). -/
def State.countSync (s : State) : State := { s with stream := { s.stream with syncCount := s.stream.syncCount + 1 } }

/-- The body of SYNC_FIND (R291). -/
def syncFindBody (s : State) : State :=
  match s.find s.rdptr with
  | some r => ((s.setRdptr r).setSyncOff r).countSync.setStreamFlags false false true false
  | none => (s.setRdptr s.inLen).setStreamFlags true false false false

/-- The body of SYNC_SKIP (R293). -/
def syncSkipBody (n : Nat) (s : State) : State :=
  if s.rdptr + n ≤ s.inLen then (s.setRdptr (s.rdptr + n)).setStreamFlags false false false false
  else (s.setRdptr s.inLen).setStreamFlags true false false false

/-- SYNC_FIND (R291). -/
def execSyncFind (s : State) : Host.Outcome State Fault Refusal := runCommand [(!s.cfg.syncOk, .cfg)] syncFindBody s

/-- SYNC_SKIP (R293). -/
def execSyncSkip (n : Nat) (s : State) : Host.Outcome State Fault Refusal := runCommand [] (syncSkipBody n) s

end Sys2Proof.Machine
end

