-- ==== Sys2Proof/Machine/Cadu.lean ====
section
/-! DEFINITION. The CADU unit: CADU_READ (R312 to R316). -/

namespace Sys2Proof.Machine

/-- No more data: `RDPTR = IN_LEN`, `EOS` (R312). -/
def endOfStream (s : State) : State :=
  ((s.setRdptr s.inLen).setStreamFlags true false false false).setFrameValid false

/-- The short read `short(p)` (R314); `FOUND` and `LOCK_MISS` stay as the read has set them. -/
def shortRead (p : Nat) (s : State) : State :=
  { s.setRdptr p with status := { s.status with short := true, eos := false, frameValid := false } }

/-- A whole frame is in `FB`: derandomize, then decode, each if enabled (R316), then count it (R312). -/
def finishFrame (s : State) : State :=
  let s := if s.cfg.rsCfg.drEn then drApplyBody s else s
  let s := if s.cfg.rsCfg.rsEn then rsDecodeBody s else s
  let s := s.setFrameValid true
  { s with stream := { s.stream with caduCount := s.stream.caduCount + 1 } }

/-- The payload after the marker, read from stream offset `q`: `FLEN - S` bytes, or a short read (R312). -/
def readPayload (q : Nat) (s : State) : State :=
  let need := s.cfg.FLEN - s.cfg.S
  let avail := s.inLen - q
  if avail < need then shortRead s.inLen (s.fillFb s.cfg.S avail fun j => s.inByte (q + j))
  else finishFrame ((s.fillFb s.cfg.S need fun j => s.inByte (q + j)).setRdptr (q + need))

/-- Search mode (R312): the marker is found by `find` and copied to `FB[0 .. S-1]`. -/
def caduSearch (s : State) : State :=
  match s.find s.rdptr with
  | none => endOfStream s
  | some r =>
    let s := ((s.setSyncOff r).countSync).setStreamFlags false false true false
    readPayload r (s.fillFb 0 s.cfg.S fun j => s.inByte (r - s.cfg.S + j))

/-- Locked mode (R313): the `S` bytes at `RDPTR` are taken as the marker, and `LOCK_MISS` reports a difference. -/
def caduLocked (s : State) : State :=
  let a := s.inLen - s.rdptr
  let n := min a s.cfg.S
  if a = 0 then endOfStream s
  else
    let miss := (List.range n).any fun j => decide (s.inByte (s.rdptr + j) ≠ s.cfg.MK j)
    let t := (s.fillFb 0 n fun j => s.inByte (s.rdptr + j)).setStreamFlags false false false miss
    if a < s.cfg.S then shortRead (s.rdptr + a) t
    else readPayload (s.rdptr + s.cfg.S) (t.setSyncOff (s.rdptr + s.cfg.S))

/-- The body of CADU_READ (R312). -/
def caduReadBody (lk : ReadMode) (s : State) : State :=
  match lk with
  | .search => caduSearch s
  | .locked => caduLocked s

/-- CADU_READ (R312): refused with SEQ while a line is held (R317). -/
def execCaduRead (lk : ReadMode) (s : State) : Host.Outcome State Fault Refusal :=
  runCommand [(decide (s.dp.phase = .lineDone), .seq), (!s.cfg.frameOk, .cfg)] (caduReadBody lk) s

end Sys2Proof.Machine
end

