-- ==== Sys2Proof/Machine/Depacketizer.lean ====
section
/-! DEFINITION. The DP unit: the depacketizer and 10-bit sample reassembler (R340 to R355) and the commands
DP_FRAME, DP_ACK, DP_FLUSH and DP_RESET (R360 to R366). -/

namespace Sys2Proof.Machine

/-- `SHIFT = 2 * SHIFT2` (R344). -/
def DpRegs.shift (d : DpRegs) : Nat := 2 * d.shift2.toNat

/-- Writes the DP registers. -/
def State.setDp (s : State) (d : DpRegs) : State := { s with dp := d }

/-- `begin_line()` (R344). -/
def beginLine (s : State) : State :=
  let s := (List.range s.cfg.WC).foldl (fun s i => s.setSl i s.cfg.dpFill) s
  s.setDp { s.dp with cursor := 0, shift2 := 3, carryV := false, inc := false }

/-- `emit(v)` (R345): a 10-bit sample widened to its 16-bit cell. -/
def emit (v : BitVec 10) (s : State) : State :=
  let s := s.setSl s.dp.cursor.toNat (v.setWidth 16)
  s.setDp { s.dp with cursor := s.dp.cursor + 1 }

/-- The sample of a 16-bit window: `(w >> SHIFT) & 0x3FF` (R349). -/
def sampleOf (w : BitVec 16) (shift : Nat) : BitVec 10 := (w >>> shift).setWidth 10

/-- The running shift after a sample: 6, 4, 2, 0 and back to 6 (R350). -/
def nextShift2 (k : BitVec 2) : BitVec 2 := if k = 0 then 3 else k - 1

/-- The line is complete (R349, R353): `POS` is the zone offset of the first byte the line did not touch.
`CARRY_V` is not written: it is 0 here, but for a line the host shortened while it spanned (log entry 9). -/
def lineComplete (c : Nat) (s : State) : State :=
  s.setDp { s.dp with pos := BitVec.ofNat 11 (if s.dp.shift = 6 then c else c + 1), phase := .lineDone,
                      lines := s.dp.lines + 1 }

/-- The zone is used up on a byte boundary (R349). -/
def spanBoundary (s : State) : State := s.setDp { s.dp with phase := .span, span := 0 }

/-- A sample starts in the last byte of the zone: it is held in `CARRY` (R349, R351). -/
def spanCarry (b : Byte) (s : State) : State :=
  s.setDp { s.dp with carry := b, carryV := true, phase := .span, span := 0 }

/-- The first sample of a new fragment, from the carry byte and `Z[c]` (R349, R351). -/
def takeCarried (c : Nat) (s : State) : State :=
  let t := emit (sampleOf (be16 s.dp.carry (s.zone c)) s.dp.shift) (s.setDp { s.dp with carryV := false })
  t.setDp { t.dp with shift2 := nextShift2 t.dp.shift2 }

/-- A sample that lies in `Z[c]` and `Z[c+1]` (R349). -/
def takeSample (c : Nat) (s : State) : State :=
  let t := emit (sampleOf (be16 (s.zone c) (s.zone (c + 1))) s.dp.shift) s
  t.setDp { t.dp with shift2 := nextShift2 t.dp.shift2 }

/-- The loop of `unpack` (R349) for at most `n` turns. -/
def unpackLoop : Nat → Nat → State → State
  | 0, _, s => s
  | n + 1, c, s =>
    if s.cfg.WC ≤ s.dp.cursor.toNat then lineComplete c s
    else if s.dp.carryV then unpackLoop n (if s.dp.shift = 0 then c + 1 else c) (takeCarried c s)
    else if s.cfg.ZS ≤ c then spanBoundary s
    else if c + 1 = s.cfg.ZS then spanCarry (s.zone c) s
    else unpackLoop n (if s.dp.shift = 0 then c + 2 else c + 1) (takeSample c s)

/-- `unpack(c)` (R349). Every turn after the first consumes a zone byte or ends the loop, so `ZS + 2` turns are
always enough (Laws/Depacketizer.lean proves it). -/
def unpack (c : Nat) (s : State) : State := unpackLoop (s.cfg.ZS + 2) c s

/-- `end_line(pos)` (R352). -/
def endLine (pos : Nat) (s : State) : State :=
  s.setDp { s.dp with phase := .lineDone, inc := true, pos := BitVec.ofNat 11 pos, carryV := false,
                      lines := s.dp.lines + 1, incLines := s.dp.incLines + 1 }

/-- Counts a protocol inconsistency (R354). -/
def countProto (s : State) : State := s.setDp { s.dp with proto := s.dp.proto + 1 }

/-- Counts a packet start ignored for its APID (R346, R347). -/
def countApSkip (s : State) : State := s.setDp { s.dp with apSkip := s.dp.apSkip + 1 }

/-- Records the header at zone offset `f` in `DP_PKT`: the APID, and the sequence count where it lies in the
zone (R346, R347). -/
def readHeader (f : Nat) (s : State) : State :=
  s.setDp { s.dp with
    pktApid := (be16 (s.zone f) (s.zone (f + 1))).extractLsb' 0 11,
    pktSeq := if f + 3 < s.cfg.ZS then (be16 (s.zone (f + 2)) (s.zone (f + 3))).extractLsb' 0 14 else s.dp.pktSeq }

/-- A wanted packet starts at `f` (R346, R348): a new line begins, here or in the next frame. -/
def startLine (f : Nat) (s : State) : State :=
  let s := beginLine s
  let start := f + s.cfg.dpSkip.toNat
  if s.cfg.ZS ≤ start then s.setDp { s.dp with span := BitVec.ofNat 17 (start - s.cfg.ZS), phase := .span }
  else unpack start (s.setDp { s.dp with phase := .inPkt })

/-- `seek(p0)` (R346). -/
def seek (p0 : Nat) (s : State) : State :=
  let f := s.fhp.toNat
  if f = 0x7FF then s
  else if s.cfg.ZS ≤ f then countProto s
  else if f < p0 then s
  else if f + 1 < s.cfg.ZS then
    let t := readHeader f s
    if s.cfg.dpCfg.apidFilt && !s.cfg.apidOk t.dp.pktApid then countApSkip t else startLine f t
  else if s.cfg.dpCfg.apidFilt then countApSkip s
  else startLine f s

/-! ### Commands -/

/-- The body of DP_FRAME (R360). -/
def dpFrameBody (s : State) : State :=
  if !s.matching then s.setDp { s.dp with vcSkip := s.dp.vcSkip + 1 }
  else if s.dp.phase = .seek then seek 0 s
  else if s.cfg.ZS ≤ s.dp.span.toNat then endLine s.cfg.ZS (countProto s)
  else unpack s.dp.span.toNat (s.setDp { s.dp with phase := .inPkt })

/-- The body of DP_ACK (R362). -/
def dpAckBody (s : State) : State :=
  let t := s.setDp { s.dp with phase := .seek, inc := false, cursor := 0, shift2 := 3, carryV := false }
  if s.matching then seek s.dp.pos.toNat t else t

/-- The body of DP_FLUSH (R364). -/
def dpFlushBody (s : State) : State := if s.dp.phase = .span then endLine s.cfg.ZS s else s

/-- The body of DP_RESET (R366). -/
def dpResetBody (s : State) : State :=
  s.setDp { s.dp with phase := .seek, shift2 := 3, carryV := false, carry := 0, inc := false, pos := 0, cursor := 0,
                      span := 0 }

/-- DP_FRAME (R360). -/
def execDpFrame (s : State) : Host.Outcome State Fault Refusal :=
  runCommand [(decide (s.dp.phase = .lineDone), .seq), (!s.cfg.dpOk, .cfg)] dpFrameBody s

/-- DP_ACK (R362). -/
def execDpAck (s : State) : Host.Outcome State Fault Refusal :=
  runCommand [(decide (s.dp.phase ≠ .lineDone), .seq), (!s.cfg.dpOk, .cfg)] dpAckBody s

/-- DP_FLUSH (R364). -/
def execDpFlush (s : State) : Host.Outcome State Fault Refusal := runCommand [(!s.cfg.dpOk, .cfg)] dpFlushBody s

/-- DP_RESET (R366). -/
def execDpReset (s : State) : Host.Outcome State Fault Refusal := runCommand [] dpResetBody s

end Sys2Proof.Machine
end

