-- ==== Sys2Proof/Machine/Control.lean ====
section
/-! DEFINITION. The control commands NOP (R400) and CORE_RESET (R402, R602). -/

namespace Sys2Proof.Machine

/-- NOP (R400): only the completion. -/
def execNop (s : State) : Host.Outcome State Fault Refusal := runCommand [] (fun s => s) s

/-- The register and scratch reset of R602: every register of R600's table and the scratch. `IN`, `FB`, `SL`, the
pending word, the marks and the model's own fields keep their values. -/
def registerReset (s : State) : State :=
  { s with cmd := State.reset.cmd, status := { Status.reset with busy := s.status.busy }, cfg := CfgRegs.reset,
           stream := StreamRegs.reset, rs := RsRegs.reset, gfRes := State.reset.gfRes, dp := DpRegs.reset }

/-- The body of CORE_RESET (R402): the reset, then `CMD <- 0xFC000000`. The completion makes `STATUS` 0x00000002. -/
def coreResetBody (s : State) : State := { registerReset s with cmd := 0xFC000000 }

/-- CORE_RESET (R402). -/
def execCoreReset (s : State) : Host.Outcome State Fault Refusal := runCommand [] coreResetBody s

end Sys2Proof.Machine
end

