-- ==== Sys2Proof/Machine/Registers.lean ====
section
/-! DEFINITION. The register file as the host sees it (R32 to R67): the offset of each register, what a read
returns, and what a write stores. Every value is written from bit 31 down, as the registers' tables give it. -/

namespace Sys2Proof.Machine

/-- The registers of R32 to R67. -/
inductive Reg where
  | coreId | cmd | status | irqEn | rsCfg | rsGen | rsConst | syncCfg | marker0 | marker1 | frameLen | inLen | rdptr
  | syncOff | syncCount | caduCount | rsResult
  | rsIl (k : Fin 8)
  | rsTotCorr | rsTotUnc | rsTotFrames | rsStage | gfRes
  | vcduId | vcduVc | vcduEnc | mpdu
  | dpCfg | dpZone | dpSkip | dpGeom | dpFill | vcidMask0 | vcidMask1
  | apid (k : Fin 8)
  | dpState | dpCursor | dpSpan | dpPkt | dpLines | dpInc | dpProto | dpVcSkip | dpApSkip
  deriving DecidableEq, Repr

/-- The offset of each register (R32 to R67). -/
def Reg.offset : Reg → Nat
  | .coreId => 0x000
  | .cmd => 0x004
  | .status => 0x008
  | .irqEn => 0x00C
  | .rsCfg => 0x010
  | .rsGen => 0x014
  | .rsConst => 0x018
  | .syncCfg => 0x01C
  | .marker0 => 0x020
  | .marker1 => 0x024
  | .frameLen => 0x028
  | .inLen => 0x02C
  | .rdptr => 0x030
  | .syncOff => 0x034
  | .syncCount => 0x038
  | .caduCount => 0x03C
  | .rsResult => 0x040
  | .rsIl k => 0x044 + 4 * k.val
  | .rsTotCorr => 0x064
  | .rsTotUnc => 0x068
  | .rsTotFrames => 0x06C
  | .rsStage => 0x070
  | .gfRes => 0x074
  | .vcduId => 0x080
  | .vcduVc => 0x084
  | .vcduEnc => 0x088
  | .mpdu => 0x08C
  | .dpCfg => 0x0A0
  | .dpZone => 0x0A4
  | .dpSkip => 0x0A8
  | .dpGeom => 0x0AC
  | .dpFill => 0x0B0
  | .vcidMask0 => 0x0B4
  | .vcidMask1 => 0x0B8
  | .apid k => 0x0C0 + 4 * k.val
  | .dpState => 0x0E0
  | .dpCursor => 0x0E4
  | .dpSpan => 0x0E8
  | .dpPkt => 0x0EC
  | .dpLines => 0x0F0
  | .dpInc => 0x0F4
  | .dpProto => 0x0F8
  | .dpVcSkip => 0x0FC
  | .dpApSkip => 0x100

/-- The registers below `RS_IL0`. -/
def Reg.low : List Reg :=
  [.coreId, .cmd, .status, .irqEn, .rsCfg, .rsGen, .rsConst, .syncCfg, .marker0, .marker1, .frameLen, .inLen, .rdptr,
    .syncOff, .syncCount, .caduCount, .rsResult]

/-- The registers between `RS_IL7` and `APID0`. -/
def Reg.middle : List Reg :=
  [.rsTotCorr, .rsTotUnc, .rsTotFrames, .rsStage, .gfRes, .vcduId, .vcduVc, .vcduEnc, .mpdu, .dpCfg, .dpZone, .dpSkip,
    .dpGeom, .dpFill, .vcidMask0, .vcidMask1]

/-- The registers above `APID7`. -/
def Reg.high : List Reg := [.dpState, .dpCursor, .dpSpan, .dpPkt, .dpLines, .dpInc, .dpProto, .dpVcSkip, .dpApSkip]

/-- Every register, in the order of the address map. -/
def Reg.all : List Reg :=
  Reg.low ++ (List.finRange 8).map Reg.rsIl ++ Reg.middle ++ (List.finRange 8).map Reg.apid ++ Reg.high

/-- The register at an offset, if one is there; the gaps of R101 have none. -/
def Reg.ofOffset (off : Nat) : Option Reg := Reg.all.find? fun r => decide (r.offset = off)

/-! ### Reads (R106): the current value, every reserved bit 0 -/

/-- `IRQ_EN` (R35). -/
def IrqEn.toWord (r : IrqEn) : Word :=
  0#18 ++ BitVec.ofBool r.lineIe ++ 0#10 ++ BitVec.ofBool r.errIe ++ BitVec.ofBool r.doneIe ++ 0#1

/-- `RS_CFG` (R36). -/
def RsCfg.toWord (r : RsCfg) : Word :=
  0#6 ++ BitVec.ofBool r.drEn ++ BitVec.ofBool r.rsEn ++ r.vf ++ 0#3 ++ BitVec.ofBool r.basis ++ r.i ++ 0#3 ++ r.t

/-- `RS_GEN` (R37). -/
def RsGen.toWord (r : RsGen) : Word := 0#16 ++ r.poa ++ r.mo

/-- `RS_RESULT` (R47). -/
def RsResult.toWord (r : RsResult) : Word := BitVec.ofBool r.allClean ++ 0#19 ++ r.unc ++ r.corr

/-- `RS_ILk` (R48). -/
def RsIl.toWord (r : RsIl) : Word := 0#22 ++ BitVec.ofBool r.clean ++ BitVec.ofBool r.uncorr ++ 0#3 ++ r.cnt

/-- `RS_STAGE` (R50). -/
def RsStage.toWord (r : RsStage) : Word :=
  0#5 ++ r.il ++ 0#3 ++ BitVec.ofBool r.synNz ++ 0#1 ++ r.cause ++ BitVec.ofBool r.uncorr ++ r.nloc ++ 0#2 ++ r.l

/-- `DP_CFG` (R56). -/
def DpCfg.toWord (r : DpCfg) : Word :=
  0#29 ++ BitVec.ofBool r.zsAuto ++ BitVec.ofBool r.apidFilt ++ BitVec.ofBool r.h8

/-- `DP_ZONE.EFF`: `ZS_eff` when it lies in `0 .. 2047`, else 0 (R57). -/
def CfgRegs.eff (c : CfgRegs) : BitVec 11 :=
  if 0 ≤ c.ZSeff ∧ c.ZSeff ≤ 2047 then BitVec.ofNat 11 c.ZSeff.toNat else 0

/-- `APIDk` (R62). -/
def ApidEntry.toWord (r : ApidEntry) : Word := BitVec.ofBool r.v ++ 0#20 ++ r.apid

/-- `DP_STATE` (R63). -/
def DpRegs.stateWord (d : DpRegs) : Word :=
  0#5 ++ d.pos ++ d.carry ++ 0#2 ++ BitVec.ofBool d.inc ++ BitVec.ofBool d.carryV ++ d.shift2 ++ d.phase.bits

/-- `VCDU_ID` (R52). -/
def State.vcduId (s : State) : BitVec 14 := s.vcduWord.extractLsb' 0 14

/-- `VCDU_ENC` (R54): the flag and the key of the 8-byte channel header. -/
def State.vcduEncWord (s : State) : Word :=
  if s.cfg.dpCfg.h8 then 0#16 ++ s.fb (s.cfg.S + 7) ++ s.fb (s.cfg.S + 6) else 0

/-- `MPDU` (R55). -/
def State.mpduWord (s : State) : Word := 0#8 ++ BitVec.ofNat 8 (s.cfg.H + 2) ++ 0#5 ++ s.fhp

/-- `RS_CONST` (R38): `M`, `NN`, `T_MAX`, `I_MAX`. -/
def rsConstWord : Word :=
  0#4 ++ BitVec.ofNat 4 Config.iMax ++ BitVec.ofNat 8 Config.tMax ++ BitVec.ofNat 8 Config.nn ++ 8#8

/-- `VCDU_VC` (R53): `SCID` and `VCID` of the identifier. -/
def State.vcduVcWord (s : State) : Word := 0#16 ++ s.vcduId.extractLsb' 6 8 ++ 0#2 ++ s.vcduId.extractLsb' 0 6

/-- `DP_ZONE` (R57). -/
def CfgRegs.zoneWord (c : CfgRegs) : Word := 0#5 ++ c.eff ++ 0#5 ++ c.dpZs

/-- `DP_GEOM` (R59). -/
def DpGeom.toWord (r : DpGeom) : Word := 0#12 ++ r.c ++ r.w

/-- `DP_PKT` (R66). -/
def DpRegs.pktWord (d : DpRegs) : Word := 0#2 ++ d.pktSeq ++ 0#5 ++ d.pktApid

/-- What a read of a register returns (R106); a single low field is zero-extended over its reserved bits. -/
def State.readReg (s : State) : Reg → Word
  | .coreId => 0x52533031
  | .cmd => s.cmd
  | .status => s.statusWord
  | .irqEn => s.cfg.irqEn.toWord
  | .rsCfg => s.cfg.rsCfg.toWord
  | .rsGen => s.cfg.rsGen.toWord
  | .rsConst => rsConstWord
  | .syncCfg => s.cfg.slen.setWidth 32
  | .marker0 => s.cfg.marker0
  | .marker1 => s.cfg.marker1
  | .frameLen => (BitVec.ofNat 12 s.cfg.FLEN).setWidth 32
  | .inLen => s.stream.inLen.setWidth 32
  | .rdptr => s.stream.rdptr.setWidth 32
  | .syncOff => s.stream.syncOff.setWidth 32
  | .syncCount => s.stream.syncCount
  | .caduCount => s.stream.caduCount
  | .rsResult => s.rs.result.toWord
  | .rsIl k => s.rs.ils[k].toWord
  | .rsTotCorr => s.rs.totCorr
  | .rsTotUnc => s.rs.totUnc
  | .rsTotFrames => s.rs.totFrames
  | .rsStage => s.rs.stage.toWord
  | .gfRes => s.gfRes.setWidth 32
  | .vcduId => s.vcduId.setWidth 32
  | .vcduVc => s.vcduVcWord
  | .vcduEnc => s.vcduEncWord
  | .mpdu => s.mpduWord
  | .dpCfg => s.cfg.dpCfg.toWord
  | .dpZone => s.cfg.zoneWord
  | .dpSkip => s.cfg.dpSkip.setWidth 32
  | .dpGeom => s.cfg.dpGeom.toWord
  | .dpFill => s.cfg.dpFill.setWidth 32
  | .vcidMask0 => s.cfg.vcidMask0
  | .vcidMask1 => s.cfg.vcidMask1
  | .apid k => s.cfg.apid[k].toWord
  | .dpState => s.dp.stateWord
  | .dpCursor => s.dp.cursor.setWidth 32
  | .dpSpan => s.dp.span.setWidth 32
  | .dpPkt => s.dp.pktWord
  | .dpLines => s.dp.lines
  | .dpInc => s.dp.incLines
  | .dpProto => s.dp.proto
  | .dpVcSkip => s.dp.vcSkip
  | .dpApSkip => s.dp.apSkip

/-! ### Writes (R106): RW fields and W1C bits only -/

/-- Issues a command (R500): the word is captured in `PENDING`, `CMD` reads it, `BUSY` rises, and the number of
host accesses before its step is drawn (R630). -/
def State.issue (s : State) (w : Word) : State :=
  { s with cmd := w, pending := w, status := { s.status with busy := true },
           delay := Config.pollsBeforeCompletion s.freeCount, freeCount := s.freeCount + 1 }

/-- Writes the configuration registers. -/
def State.setCfg (s : State) (c : CfgRegs) : State := { s with cfg := c }

/-- The value `IN_LEN` stores: clamped to `IN_SIZE` (R42). -/
def clampInLen (v : Word) : BitVec 17 := BitVec.ofNat 17 (min (v.extractLsb' 0 17).toNat Config.inSize)

/-- What a write of a register does (R106). A register with no writable field ignores it. -/
def State.writeReg (s : State) (v : Word) : Reg → State
  | .cmd => s.issue v
  | .status => { s with status := s.status.acknowledge (v.getLsbD 1) (v.getLsbD 2) }
  | .irqEn => s.setCfg { s.cfg with irqEn := ⟨v.getLsbD 1, v.getLsbD 2, v.getLsbD 13⟩ }
  | .rsCfg => s.setCfg { s.cfg with rsCfg :=
      ⟨v.extractLsb' 0 5, v.extractLsb' 8 4, v.getLsbD 12, v.extractLsb' 16 8, v.getLsbD 24, v.getLsbD 25⟩ }
  | .rsGen => s.setCfg { s.cfg with rsGen := ⟨v.extractLsb' 0 8, v.extractLsb' 8 8⟩ }
  | .syncCfg => s.setCfg { s.cfg with slen := v.extractLsb' 0 4 }
  | .marker0 => s.setCfg { s.cfg with marker0 := v }
  | .marker1 => s.setCfg { s.cfg with marker1 := v }
  | .inLen => { s with stream := { s.stream with inLen := clampInLen v } }
  | .rdptr => { s with stream := { s.stream with rdptr := v.extractLsb' 0 17 } }
  | .syncCount => { s with stream := { s.stream with syncCount := v } }
  | .caduCount => { s with stream := { s.stream with caduCount := v } }
  | .rsTotCorr => { s with rs := { s.rs with totCorr := v } }
  | .rsTotUnc => { s with rs := { s.rs with totUnc := v } }
  | .rsTotFrames => { s with rs := { s.rs with totFrames := v } }
  | .dpCfg => s.setCfg { s.cfg with dpCfg := ⟨v.getLsbD 0, v.getLsbD 1, v.getLsbD 2⟩ }
  | .dpZone => s.setCfg { s.cfg with dpZs := v.extractLsb' 0 11 }
  | .dpSkip => s.setCfg { s.cfg with dpSkip := v.extractLsb' 0 16 }
  | .dpGeom => s.setCfg { s.cfg with dpGeom := ⟨v.extractLsb' 0 16, v.extractLsb' 16 4⟩ }
  | .dpFill => s.setCfg { s.cfg with dpFill := v.extractLsb' 0 16 }
  | .vcidMask0 => s.setCfg { s.cfg with vcidMask0 := v }
  | .vcidMask1 => s.setCfg { s.cfg with vcidMask1 := v }
  | .apid k => s.setCfg { s.cfg with apid := s.cfg.apid.set k ⟨v.extractLsb' 0 11, v.getLsbD 31⟩ }
  | .dpLines => s.setDp { s.dp with lines := v }
  | .dpInc => s.setDp { s.dp with incLines := v }
  | .dpProto => s.setDp { s.dp with proto := v }
  | .dpVcSkip => s.setDp { s.dp with vcSkip := v }
  | .dpApSkip => s.setDp { s.dp with apSkip := v }
  | .coreId => s
  | .rsConst => s
  | .frameLen => s
  | .syncOff => s
  | .rsResult => s
  | .rsIl _ => s
  | .rsStage => s
  | .gfRes => s
  | .vcduId => s
  | .vcduVc => s
  | .vcduEnc => s
  | .mpdu => s
  | .dpState => s
  | .dpCursor => s
  | .dpSpan => s
  | .dpPkt => s

end Sys2Proof.Machine
end

