-- ==== Sys2Proof/Machine/Bus.lean ====
section
/-! DEFINITION. The host bus (R100 to R118): the address map, what each access does, the two modelling faults
(R520, R521), and which agent moves next (R500, R630). -/

namespace Sys2Proof.Machine

/-! ### The address map (R101) -/

/-- The five scratch windows (R83, R101). -/
inductive ScratchArray where
  | syn | sigma | omega | loc | mag
  deriving DecidableEq, Repr

/-- The four table windows (R84, R101), by basis (true is dual). -/
inductive RomTable where
  | alog (basis : Bool)
  | log (basis : Bool)
  deriving DecidableEq, Repr

/-- What lies at a mapped word address. -/
inductive Target where
  | reg (r : Reg)
  | scratch (x : ScratchArray) (off : Nat)
  | rom (x : RomTable) (off : Nat)
  | ram (addr : Nat)
  deriving DecidableEq, Repr

/-- The scratch windows, 64 bytes each, with their bases (R101). -/
def scratchWindows : List (Nat × ScratchArray) :=
  [(0x800, .syn), (0x840, .sigma), (0x880, .omega), (0x8C0, .loc), (0x900, .mag)]

/-- The table windows, 256 bytes each, with their bases (R101). -/
def romWindows : List (Nat × RomTable) :=
  [(0xC00, .alog false), (0xD00, .log false), (0xE00, .alog true), (0xF00, .log true)]

/-- What lies at a word address, `none` where nothing is mapped (R101, R105). -/
def Target.ofAddr (a : Nat) : Option Target :=
  match Reg.ofOffset a with
  | some r => some (.reg r)
  | none =>
    match scratchWindows.find? fun x => decide (x.1 ≤ a ∧ a < x.1 + 64) with
    | some (base, x) => some (.scratch x (a - base))
    | none =>
      match romWindows.find? fun x => decide (x.1 ≤ a ∧ a < x.1 + 256) with
      | some (base, x) => some (.rom x (a - base))
      | none => if ramAddr a then some (.ram a) else none

/-! ### Reads and writes by window (R107, R108) -/

/-- A byte of a scratch window: the reserved bytes past the array's end read 0 (R107). -/
def Scratch.byte (x : Scratch) : ScratchArray → Nat → Byte
  | .syn, i => x.syn.getD i 0
  | .sigma, i => x.sigma.getD i 0
  | .omega, i => x.omega.getD i 0
  | .loc, i => x.loc.getD i 0
  | .mag, i => x.mag.getD i 0

/-- Stores a byte of a scratch window; the reserved bytes ignore it (R107). -/
def Scratch.setByte (x : Scratch) (i : Nat) (v : Byte) : ScratchArray → Scratch
  | .syn => { x with syn := x.syn.setIfInBounds i v }
  | .sigma => { x with sigma := x.sigma.setIfInBounds i v }
  | .omega => { x with omega := x.omega.setIfInBounds i v }
  | .loc => { x with loc := x.loc.setIfInBounds i v }
  | .mag => { x with mag := x.mag.setIfInBounds i v }

/-- A byte of a table window (R84, R107). -/
def romByte : RomTable → Nat → Byte
  | .alog basis, i => alog basis i
  | .log basis, i => BitVec.ofNat 8 (glog basis (BitVec.ofNat 8 i))

/-- The four bytes at `i .. i+3` as a bus word (R102). -/
def wordOf (f : Nat → Byte) (i : Nat) : Word := le32 (f i) (f (i + 1)) (f (i + 2)) (f (i + 3))

/-- What a read of a mapped word returns (R106 to R108). -/
def State.readTarget (s : State) : Target → Word
  | .reg r => s.readReg r
  | .scratch x off => wordOf (s.rs.scratch.byte x) off
  | .rom x off => wordOf (romByte x) off
  | .ram a => wordOf s.byteAt a

/-- What a write of a mapped word does (R106 to R108): the four bytes of an RW window are stored, a table window
ignores it. -/
def State.writeTarget (s : State) (v : Word) : Target → State
  | .reg r => s.writeReg v r
  | .scratch x off =>
    s.setScratch ((List.range 4).foldl (fun y k => y.setByte (off + k) (wordByte v k) x) s.rs.scratch)
  | .rom _ _ => s
  | .ram a => (List.range 4).foldl (fun s k => s.setByte (a + k) (wordByte v k)) s

/-! ### One access (R100) -/

/-- How an access ends, by the checks of R100 in order. -/
inductive Access where
  | hostBus
  | hazard
  | perform (t : Target)
  deriving DecidableEq, Repr

/-- The checks of R100, with the width check of R104: width and alignment, then the map, then `BUSY`, under
which only a read of `STATUS` is allowed (R520). -/
def State.checkAccess (s : State) (isRead : Bool) (addr : Word) (width : Nat) : Access :=
  if width ≠ 4 ∨ addr.toNat % 4 ≠ 0 then .hostBus
  else
    match Target.ofAddr addr.toNat with
    | none => .hostBus
    | some t => if s.status.busy && !(isRead && decide (t = .reg .status)) then .hazard else .perform t

/-- A read that returns no defined value: the host receives a free value (R520, R521). -/
def State.returnFree (s : State) : State :=
  { s with busData := Config.undefinedRead s.freeCount, freeCount := s.freeCount + 1 }

/-- A read returns a value; once a fault mark is set, nothing may be assumed of what the host reads (R520). -/
def State.returnValue (s : State) (v : Word) : State :=
  if s.hazard || s.hostBus then s.returnFree else { s with busData := v }

/-- `MemRead(addr, width)` (R100, R109): a read has no effect beyond the value it returns. -/
def State.memRead (s : State) (addr : Word) (width : Nat) : State :=
  match s.checkAccess true addr width with
  | .hostBus => ({ s with hostBus := true } : State).returnFree
  | .hazard => ({ s with hazard := true } : State).returnFree
  | .perform t => s.returnValue (s.readTarget t)

/-- `MemWrite(addr, width, v)` (R100). -/
def State.memWrite (s : State) (addr : Word) (width : Nat) (v : Word) : State :=
  match s.checkAccess false addr width with
  | .hostBus => { s with hostBus := true }
  | .hazard => { s with hazard := true }
  | .perform t => s.writeTarget v t

/-! ### The agents' turns (R4, R500, R630) -/

/-- Which agent moves next. -/
inductive Turn where
  | core
  | host (op : HostOp) (rest : List HostOp)
  | idle
  deriving DecidableEq, Repr

/-- While a command is pending, the host makes the accesses that the drawn delay lets pass, and then, or when the
host waits for nothing, the CORE's step comes; the delay is finite, so the step always comes (R500, R630). With no
command pending the CORE is idle (R113) and only the host moves. -/
def State.turn (s : State) : Turn :=
  match s.host with
  | [] => if s.status.busy then .core else .idle
  | op :: rest => if s.status.busy && decide (s.delay = 0) then .core else .host op rest

/-- One host action, taken from the host's list. `WAIT` reads `STATUS` and stays in the list while bit 0 of the
value it read, `BUSY`, is 1 (R137). -/
def hostStep (op : HostOp) (rest : List HostOp) (s : State) : State :=
  let s := { s with host := rest, delay := s.delay - 1 }
  match op with
  | .read addr width => s.memRead addr width
  | .write addr width v => s.memWrite addr width v
  | .wait =>
    let t := s.memRead 0x008 4
    if t.busData.getLsbD 0 then { t with host := .wait :: rest } else t

end Sys2Proof.Machine
end

