-- ==== Sys2Proof/Machine/Dispatch.lean ====
section
/-! DEFINITION. One arm per command: the meaning of each (R133, R501). -/

namespace Sys2Proof.Machine

-- The meaning of a command that decoded, from its checks to its completion (R501).
def exec (i : Instr) (s : State) : Host.Outcome State Fault Refusal :=
  match i with
  | .nop => Sys2Proof.Machine.execNop s
  | .gfLog a => Sys2Proof.Machine.execGfLog a s
  | .gfExp a => Sys2Proof.Machine.execGfExp a s
  | .gfMul a b => Sys2Proof.Machine.execGfMul a b s
  | .gfDiv a b => Sys2Proof.Machine.execGfDiv a b s
  | .rsSyn il => Sys2Proof.Machine.execRsSyn il s
  | .rsBm => Sys2Proof.Machine.execRsBm s
  | .rsChien => Sys2Proof.Machine.execRsChien s
  | .rsForney => Sys2Proof.Machine.execRsForney s
  | .rsCorr il => Sys2Proof.Machine.execRsCorr il s
  | .rsDecode => Sys2Proof.Machine.execRsDecode s
  | .drApply => Sys2Proof.Machine.execDrApply s
  | .syncFind => Sys2Proof.Machine.execSyncFind s
  | .syncSkip n => Sys2Proof.Machine.execSyncSkip n s
  | .caduRead lk => Sys2Proof.Machine.execCaduRead lk s
  | .dpFrame => Sys2Proof.Machine.execDpFrame s
  | .dpAck => Sys2Proof.Machine.execDpAck s
  | .dpFlush => Sys2Proof.Machine.execDpFlush s
  | .dpReset => Sys2Proof.Machine.execDpReset s
  | .coreReset => Sys2Proof.Machine.execCoreReset s

end Sys2Proof.Machine
end

