-- ==== Sys2Proof/Machine/Execute.lean ====
section
/-! DEFINITION. The CORE's step: the pending command is decoded and executed whole (R500, R501). -/

namespace Sys2Proof.Machine

/-- Executes the pending command: an illegal word completes with ILLEGAL and writes nothing else (R501, R135). -/
def runPending (s : State) : Host.Outcome State Fault Refusal :=
  match decode s.pending with
  | .ok i => exec i s
  | .error _ => .next (s.complete .illegal)

/-- The issue of `w` by the host (R500), the CORE's step to come next: `PENDING` and `CMD` hold the word, `BUSY`
is 1 and no further host access passes first. -/
def State.withPending (s : State) (w : Word) : State :=
  { s with cmd := w, pending := w, status := { s.status with busy := true }, delay := 0 }

end Sys2Proof.Machine
end

