-- ==== Sys2Proof/Machine/Step.lean ====
section
/-! DEFINITION. One step of the machine's history (R631): a command step of the CORE, one host access, or, with
nothing to do, idleness (R535). -/

namespace Sys2Proof.Machine

/-- One step (R500, R631). -/
def step (s : State) : Host.Outcome State Fault Refusal :=
  match s.turn with
  | .core => runPending s
  | .host op rest => .next (hostStep op rest s)
  | .idle => .next s

/-- The state in which the very next step runs the command word `w` of an opcode-table row (bits above `nbits` are
0): the host's write of the word to `CMD` (R500, R116), which is this machine's only fetch. -/
def State.withFetchWord (s : State) (nbits w : Nat) : State :=
  s.withPending (BitVec.ofNat 32 (w % 2 ^ nbits))

end Sys2Proof.Machine
end

