-- ==== Sys2Proof/Safety.lean ====
section
/-! DEFINITION. What a safe run is: the invariant every step keeps, and the absence of the modelling faults. -/

namespace Sys2Proof.Machine

/-- The DP unit between commands (R341): INPKT exists only inside a command; SEEK has an empty line; a carry byte
is pending only in SPAN at zone offset 0, or in a held line whose geometry the host changed (log entry 9); `INC` is
set only on a held line; the cursor stays within the scan-line buffer (R64). -/
structure DpRegs.Inv (d : DpRegs) : Prop where
  phase_boundary : d.phase ≠ .inPkt
  seek_empty : d.phase = .seek → d.cursor = 0 ∧ d.carryV = false ∧ d.shift2 = 3
  carry_spans : d.carryV = true → (d.phase = .span ∧ d.span = 0) ∨ d.phase = .lineDone
  inc_held : d.inc = true → d.phase = .lineDone
  cursor_bound : d.cursor.toNat ≤ Config.slCells

/-- The line between commands, in R341's own words, for a line of `wc` samples: INPKT is not seen; SEEK has an empty
line; a line in SPAN wants more samples; a carry byte is pending only in SPAN at zone offset 0, so never in LINE_DONE.
R341 excepts a host that changes `DP_GEOM` during the line; log entry 9 says what then follows. -/
structure DpRegs.LineInv (wc : Nat) (d : DpRegs) : Prop where
  phase_boundary : d.phase ≠ .inPkt
  seek_empty : d.phase = .seek → d.cursor = 0 ∧ d.carryV = false
  span_open : d.phase = .span → d.cursor.toNat < wc
  carry_spans : d.carryV = true → d.phase = .span ∧ d.span = 0
  held_no_carry : d.phase = .lineDone → d.carryV = false

/-- R341's list holds of the state. -/
abbrev State.LineInv (s : State) : Prop := s.dp.LineInv s.cfg.WC

/-- The host's one exception in R341 does not occur between `s` and `t`: a line that stays in SPAN is not shortened. -/
def State.LineNotShortened (s t : State) : Prop :=
  s.dp.phase = .span → t.dp.phase = .span → s.cfg.WC ≤ t.cfg.WC

/-- The state's invariant: the RAM keeps its canonical form, `IN_LEN` its clamp (R42), and the DP unit its own. -/
structure State.Inv (s : State) : Prop where
  mem_wf : s.mem.wf = true
  inLen_le : s.stream.inLen.toNat ≤ Config.inSize
  dp_inv : s.dp.Inv

/-- The host has kept to the bus protocol so far (R520, R521). -/
def State.ProtocolKept (s : State) : Prop := s.hazard = false ∧ s.hostBus = false

end Sys2Proof.Machine
end

