-- ==== Sys2Proof/Certificates/Slice0/Obligations.lean ====
section
/-! DEFINITION. The statements about the model, for the provers. The definitions under `Sys2Proof.Claims` are written
from the spec's rules again, apart from the model's own, so that a statement can be held against the rule alone. -/

namespace Sys2Proof.Claims

open Sys2Proof.Machine

/-! ### Words the statements use -/

/-- Completion with code OK (R503), beside the fields a command's own rule writes. -/
def doneOk (st : Status) : Status := { st with busy := false, done := true, errcode := .ok }

/-- Completion with an error code (R503). -/
def doneErr (code : ErrCode) (st : Status) : Status :=
  { st with busy := false, done := true, errcode := code, err := true }

/-- `CFG_RS_OK` (R69). -/
abbrev RsOk (c : CfgRegs) : Prop :=
  (1 ≤ c.T ∧ c.T ≤ 16) ∧ (1 ≤ c.I ∧ c.I ≤ 8) ∧ 2 * c.T + c.VF + 1 ≤ 255 ∧ Nat.gcd c.POA 255 = 1

/-- `CFG_SYNC_OK` (R69). -/
abbrev SyncOk (c : CfgRegs) : Prop := 1 ≤ c.S ∧ c.S ≤ 8

/-- `CFG_FRAME_OK` (R69). -/
abbrev FrameOk (c : CfgRegs) : Prop := RsOk c ∧ SyncOk c

/-- `ZS_eff` (R68). -/
def zoneSize (c : CfgRegs) : Int :=
  if c.dpCfg.zsAuto = true then (255 - 2 * (c.T : Int) - (c.VF : Int)) * (c.I : Int) - (c.H : Int) - 2
  else (c.dpZs.toNat : Int)

/-- `CFG_DP_OK` (R69). -/
abbrev DpOk (c : CfgRegs) : Prop :=
  FrameOk c ∧ (1 ≤ zoneSize c ∧ zoneSize c ≤ 2047) ∧ ((c.S + c.H + 2 : Nat) : Int) + zoneSize c ≤ (c.FLEN : Int) ∧
    (1 ≤ c.WC ∧ c.WC ≤ 16384)

/-- A word matches a row of the opcode map (R133). -/
abbrev Matches (w : Word) (row : OpcodeRow) : Prop := w &&& row.mask = row.pattern

/-- The columns of R504, in their order: `SEQ`, `CFG`, `RANGE`, `DIVZERO`; the first that fails gives the code. -/
def expectedCode (i : Instr) (s : State) : ErrCode :=
  match i with
  | .nop | .coreReset | .gfLog _ | .gfExp _ | .gfMul _ _ | .syncSkip _ | .dpReset => .ok
  | .gfDiv _ b => if b = 0 then .divZero else .ok
  | .rsSyn il | .rsCorr il => if ¬ FrameOk s.cfg then .cfg else if s.cfg.I ≤ il then .range else .ok
  | .rsBm | .rsChien | .rsForney => if ¬ RsOk s.cfg then .cfg else .ok
  | .rsDecode | .drApply => if ¬ FrameOk s.cfg then .cfg else .ok
  | .syncFind => if ¬ SyncOk s.cfg then .cfg else .ok
  | .caduRead _ => if s.dp.phase = .lineDone then .seq else if ¬ FrameOk s.cfg then .cfg else .ok
  | .dpFrame => if s.dp.phase = .lineDone then .seq else if ¬ DpOk s.cfg then .cfg else .ok
  | .dpAck => if s.dp.phase ≠ .lineDone then .seq else if ¬ DpOk s.cfg then .cfg else .ok
  | .dpFlush => if ¬ DpOk s.cfg then .cfg else .ok

/-- The state after a command, for the statements about several commands in a row. Every command answers a next
state, so the other arms are not reached. -/
def after (i : Instr) (s : State) : State :=
  match exec i s with
  | .next t => t
  | .fault _ => s
  | .refused _ => s

/-! ### The field (R200 to R203) -/

/-- `v << 1`, reduced by `0x187` when bit 8 is set (R201). -/
def timesAlpha (x : Byte) : Byte :=
  let v : BitVec 9 := x.setWidth 9 <<< 1
  if v.getLsbD 8 then (v ^^^ 0x187#9).setWidth 8 else v.setWidth 8

/-- The product of two bytes as polynomials in `alpha`, modulo `0x187` (R200). -/
def polyProduct (a c : Byte) : Byte :=
  xorOver (List.range 8) fun k => if c.getLsbD k then timesAlpha^[k] a else 0

/-- The basis transform `TAL` by its rows (R203). -/
def tal (x : Byte) : Byte :=
  xorOver (List.range 8) fun k =>
    if x.getLsbD k then [0x8D#8, 0xEF#8, 0xEC#8, 0x86#8, 0xFA#8, 0x99#8, 0xAF#8, 0x7B#8].getD (7 - k) 0 else 0

/-! ### The code (R230, R231) -/

/-- `r_p`, the symbol at position `p` of interleave `il` (R230). -/
def symbol (s : State) (il p : Nat) : Byte := s.fb (s.cfg.S + p * s.cfg.I + il)

/-- `R(gexp(e))`: the received polynomial of interleave `il`, the symbol at position `p` multiplying the power
`254 - VF - p` (R230). -/
def receivedAt (s : State) (il e : Nat) : Byte :=
  xorOver (List.range (255 - s.cfg.VF)) fun p =>
    gmul s.basis (symbol s il p) (gexp s.basis (e * (254 - s.cfg.VF - p)))

/-- The codeword of interleave `il` is valid: it vanishes at the code's `2T` roots (R231). -/
abbrev ValidCodeword (s : State) (il : Nat) : Prop :=
  ∀ i < 2 * s.cfg.T, receivedAt s il (s.cfg.POA * (s.cfg.MO + i)) = 0

/-- The exponent of `X_l^-1`, modulo 255 (R244). -/
def inverseExp (c : CfgRegs) (l : Nat) : Nat := 255 - c.POA * l % 255

/-- `sigma(X_l^-1)`, from the `2T + 1` coefficients in `SIGMA` (R244). -/
def locatorAt (s : State) (l : Nat) : Byte :=
  xorOver (List.range (2 * s.cfg.T + 1)) fun i => gmul s.basis (s.sigma i) (gexp s.basis (inverseExp s.cfg l * i))

/-- `sigma'(X_l^-1)`: the formal derivative keeps the odd coefficients (R246). -/
def derivativeAt (s : State) (l : Nat) : Byte :=
  xorOver (List.range s.cfg.T) fun i =>
    gmul s.basis (s.sigma (2 * i + 1)) (gexp s.basis (inverseExp s.cfg l * (2 * i)))

/-- `Omega(X_l^-1)`, from the `2T` coefficients in `OMEGA` (R246). -/
def evaluatorValue (s : State) (l : Nat) : Byte :=
  xorOver (List.range (2 * s.cfg.T)) fun i => gmul s.basis (s.omega i) (gexp s.basis (inverseExp s.cfg l * i))

/-- `e_l = X_l^(1-MO) * Omega(X_l^-1) / sigma'(X_l^-1)` (R247), 0 where the divisor is 0 (R246). The exponent
`1 - MO` is taken modulo 255. -/
def errorValue (s : State) (l : Nat) : Byte :=
  if derivativeAt s l = 0 then 0
  else gmul s.basis (gexp s.basis (s.cfg.POA * l % 255 * ((256 - s.cfg.MO) % 255)))
    (gdiv s.basis (evaluatorValue s l) (derivativeAt s l))

/-- `RS_STAGE.UNCORR` and `CAUSE` after `flag(c)` where `raised` holds (R232). -/
def flagged (st : RsStage) (raised : Bool) (c : BitVec 2) : RsStage :=
  { st with uncorr := st.uncorr || raised, cause := if st.uncorr = false ∧ raised = true then c else st.cause }

/-- The syndrome recurrence of length `len`: the coefficients `c` annihilate every run of `len + 1` of the first `n`
components of `syn` (§4.2 step 2, R242). -/
abbrev Recurrence (basis : Bool) (syn : Nat → Byte) (n len : Nat) (c : Nat → Byte) : Prop :=
  ∀ k, len ≤ k → k < n → xorOver (List.range (len + 1)) (fun i => gmul basis (c i) (syn (k - i))) = 0

/-- The variables of R242's loop: `sig`, `D` and `L`. -/
structure BerlekampMassey where
  sig : Nat → Byte
  d : Nat → Byte
  len : Nat

/-- R242's loop after `k` turns. Its arrays end at `2T + 1`; entry `j` never depends on an entry above `j`, so the ones
past the end are never seen. -/
def berlekampMassey (basis : Bool) (syn : Nat → Byte) : Nat → BerlekampMassey
  | 0 => ⟨fun j => if j = 0 then gone basis else 0, fun j => if j = 1 then gone basis else 0, 0⟩
  | k + 1 =>
    let b := berlekampMassey basis syn k
    let delta := xorOver (List.range (b.len + 1)) fun i => gmul basis (b.sig i) (syn (k - i))
    let longer := delta ≠ 0 ∧ 2 * b.len < k + 1
    ⟨fun j => if delta = 0 then b.sig j else b.sig j ^^^ gmul basis delta (b.d j),
     fun j => if j = 0 then 0 else if longer then gdiv basis (b.sig (j - 1)) delta else b.d (j - 1),
     if longer then k + 1 - b.len else b.len⟩

/-- The stage commands a host issues for one interleave, as R251 lists them. -/
def stagesByHost (s : State) (il : Nat) : State :=
  let s := after (.rsSyn il) s
  if s.rs.stage.synNz then
    let s := after .rsBm s
    let s := if s.rs.stage.uncorr then s else after .rsChien s
    let s := if s.rs.stage.uncorr then s else after .rsForney s
    after (.rsCorr il) s
  else s

/-! ### The marker search (R40, R290) -/

/-- The marker byte `MK[j]`, from its byte of `MARKER0` or `MARKER1` (R40). -/
def markerByte (c : CfgRegs) (j : Nat) : Byte :=
  if j < 4 then c.marker0.extractLsb' (8 * j) 8 else c.marker1.extractLsb' (8 * (j - 4)) 8

/-- The partial-match index `idx` of R290's loop after it has read `n` bytes from `RDPTR` on. -/
def matchIndex (s : State) : Nat → Nat
  | 0 => 0
  | n + 1 =>
    let b := s.inByte (s.rdptr + n)
    if b = markerByte s.cfg (matchIndex s n) then matchIndex s n + 1 else if b = markerByte s.cfg 0 then 1 else 0

/-- R290's loop returns after `n` bytes: they lie in the stream, and the index reaches `S` there for the first time. -/
abbrev FoundAfter (s : State) (n : Nat) : Prop :=
  s.rdptr + n ≤ s.inLen ∧ matchIndex s n = s.cfg.S ∧ ∀ m < n, matchIndex s m ≠ s.cfg.S

/-- SYNC_FIND with a hit that ends at stream offset `r` (R291). -/
def syncFound (s : State) (r : Nat) : State :=
  { s with
    stream := { s.stream with rdptr := BitVec.ofNat 17 r, syncOff := BitVec.ofNat 17 r,
                              syncCount := s.stream.syncCount + 1 },
    status := { doneOk s.status with eos := false, short := false, found := true, lockMiss := false } }

/-- SYNC_FIND without a hit (R291). -/
def syncEnded (s : State) : State :=
  { s with
    stream := { s.stream with rdptr := s.stream.inLen },
    status := { doneOk s.status with eos := true, short := false, found := false, lockMiss := false } }

/-! ### The frame in `FB` as the DP unit reads it (R342) -/

/-- `VC_OK(VCID)` with `VCID = FB[S+1] & 0x3F` (R61, R342). -/
abbrev Matching (s : State) : Prop :=
  (s.cfg.vcidMask1 ++ s.cfg.vcidMask0).getLsbD (s.fb (s.cfg.S + 1) &&& 0x3F).toNat = true

/-- `FHP`: 11 bits of the two bytes at `FB[S+H]`, the first the higher (R342). -/
def headerPointer (s : State) : Nat :=
  (256 * (s.fb (s.cfg.S + s.cfg.H)).toNat + (s.fb (s.cfg.S + s.cfg.H + 1)).toNat) % 2048

/-- `Z[k]` (R68). -/
def zoneByte (s : State) (k : Nat) : Byte := s.fb (s.cfg.S + s.cfg.H + 2 + k)

/-- Two bytes of the zone as a number, the first the higher (R12). -/
def zonePair (s : State) (k : Nat) : Nat := 256 * (zoneByte s k).toNat + (zoneByte s (k + 1)).toNat

/-- `ZS` (R68). -/
def zs (s : State) : Nat := (zoneSize s.cfg).toNat

/-- The packet at zone offset `f` is taken: the filter is off, or its APID lies in the zone and on the enabled
allow-list (R346, R347). -/
abbrev Wanted (s : State) (f : Nat) : Prop :=
  s.cfg.dpCfg.apidFilt = false ∨
    (f + 1 < zs s ∧ ∃ k : Fin 8, s.cfg.apid[k].v = true ∧ s.cfg.apid[k].apid.toNat = zonePair s f % 2048)

/-- The DP registers after the header at `f` has been read into `DP_PKT` (R346). -/
def headerRead (s : State) (f : Nat) : DpRegs :=
  { s.dp with
    pktApid := if f + 1 < zs s then BitVec.ofNat 11 (zonePair s f % 2048) else s.dp.pktApid,
    pktSeq := if f + 3 < zs s then BitVec.ofNat 14 (zonePair s (f + 2) % 16384) else s.dp.pktSeq }

/-- Ten bits of a byte stream from an even bit offset, most significant bit first (R350). -/
def sampleAt (bytes : Nat → Byte) (bit : Nat) : Nat :=
  (256 * (bytes (bit / 8)).toNat + (bytes (bit / 8 + 1)).toNat) / 2 ^ (6 - bit % 8) % 1024

/-- How many whole samples lie in `len` bytes after the first `bit` bits. -/
def samplesIn (len bit : Nat) : Nat := (8 * len - bit) / 10

/-- The DP registers after a zone is used up in the middle of a line (R349, R351): the cursor has passed the
samples taken, the shift stands at the next sample's first bit, and a byte that holds part of a sample is carried. -/
def spanned (s : State) (d : DpRegs) (cursor endBit len : Nat) : DpRegs :=
  { d with
    phase := .span, span := 0, cursor := BitVec.ofNat 15 cursor, shift2 := BitVec.ofNat 2 ((6 - endBit % 8) / 2),
    carryV := decide (endBit < 8 * len), carry := if endBit < 8 * len then zoneByte s (zs s - 1) else d.carry }

/-- The DP registers after a line is complete (R349, R353): `pos` is the first byte the line did not touch. -/
def completed (d : DpRegs) (cursor endBit pos : Nat) : DpRegs :=
  { d with
    phase := .lineDone, cursor := BitVec.ofNat 15 cursor, shift2 := BitVec.ofNat 2 ((6 - endBit % 8) / 2),
    carryV := false, pos := BitVec.ofNat 11 pos, lines := d.lines + 1 }

/-! ### The bus (R101) -/

/-- The mapped byte addresses of R101, first and last of each range. -/
def mapRanges : List (Nat × Nat) :=
  [(0x0, 0x77), (0x80, 0x8F), (0xA0, 0xBB), (0xC0, 0x103), (0x800, 0x83F), (0x840, 0x87F), (0x880, 0x8BF),
    (0x8C0, 0x8FF), (0x900, 0x93F), (0xC00, 0xCFF), (0xD00, 0xDFF), (0xE00, 0xEFF), (0xF00, 0xFFF),
    (0x1000, 0x17FF), (0x10000, 0x1FFFF), (0x20000, 0x27FFF)]

/-- A byte address in a row of R101's table. -/
abbrev Mapped (a : Nat) : Prop := ∃ r ∈ mapRanges, r.1 ≤ a ∧ a ≤ r.2

/-- An access the bus accepts: 32 bits wide, aligned, mapped (R103 to R105). -/
abbrev GoodAccess (a : Word) (width : Nat) : Prop := width = 4 ∧ a.toNat % 4 = 0 ∧ Mapped a.toNat

/-- A byte address of the `FB`, `IN` or `SL` window (R101). -/
abbrev RamByte (a : Nat) : Prop :=
  (0x1000 ≤ a ∧ a ≤ 0x17FF) ∨ (0x10000 ≤ a ∧ a ≤ 0x1FFFF) ∨ (0x20000 ≤ a ∧ a ≤ 0x27FFF)

/-- The five scratch windows of R101: first address, array length, and the array's entries (R83). -/
def scratchTable : List (Nat × Nat × (State → Nat → Byte)) :=
  [(0x800, 32, State.syn), (0x840, 34, State.sigma), (0x880, 32, State.omega), (0x8C0, 32, State.loc),
    (0x900, 32, State.mag)]

/-- The RW bits of each register whose write only stores them (R35 to R67). -/
def rwBits : Reg → Word
  | .irqEn => 0x2006
  | .rsCfg => 0x03FF1F1F
  | .rsGen => 0xFFFF
  | .syncCfg => 0xF
  | .marker0 | .marker1 => 0xFFFFFFFF
  | .rdptr => 0x1FFFF
  | .syncCount | .caduCount => 0xFFFFFFFF
  | .rsTotCorr | .rsTotUnc | .rsTotFrames => 0xFFFFFFFF
  | .dpCfg => 0x7
  | .dpZone => 0x7FF
  | .dpSkip => 0xFFFF
  | .dpGeom => 0xFFFFF
  | .dpFill => 0xFFFF
  | .vcidMask0 | .vcidMask1 => 0xFFFFFFFF
  | .apid _ => 0x800007FF
  | .dpLines | .dpInc | .dpProto | .dpVcSkip | .dpApSkip => 0xFFFFFFFF
  | .coreId | .cmd | .status | .rsConst | .frameLen | .inLen | .syncOff | .rsResult | .rsIl _ | .rsStage | .gfRes
  | .vcduId | .vcduVc | .vcduEnc | .mpdu | .dpState | .dpCursor | .dpSpan | .dpPkt => 0

/-- R600's table from `CORE_ID` to `RS_RESULT`. -/
def resetLow : List (Reg × Word) :=
  [(.coreId, 0x52533031), (.cmd, 0), (.status, 0), (.irqEn, 0), (.rsCfg, 0x03001410), (.rsGen, 0x0B70),
    (.rsConst, 0x0810FF08), (.syncCfg, 4), (.marker0, 0x1DFCCF1A), (.marker1, 0), (.frameLen, 0x400), (.inLen, 0),
    (.rdptr, 0), (.syncOff, 0), (.syncCount, 0), (.caduCount, 0), (.rsResult, 0)]

/-- R600's table from `RS_TOT_CORR` to `VCID_MASK1`, the views of `FB` apart. -/
def resetMiddle : List (Reg × Word) :=
  [(.rsTotCorr, 0), (.rsTotUnc, 0), (.rsTotFrames, 0), (.rsStage, 0), (.gfRes, 0), (.dpCfg, 4),
    (.dpZone, 0x03740374), (.dpSkip, 0), (.dpGeom, 0), (.dpFill, 0), (.vcidMask0, 0), (.vcidMask1, 0)]

/-- R600's table from `DP_STATE` on. -/
def resetHigh : List (Reg × Word) :=
  [(.dpState, 0xC), (.dpCursor, 0), (.dpSpan, 0), (.dpPkt, 0), (.dpLines, 0), (.dpInc, 0), (.dpProto, 0),
    (.dpVcSkip, 0), (.dpApSkip, 0)]

/-- The indexed registers of R600's table, `RS_ILk` and `APIDk`. -/
def resetIndexed : List (Reg × Word) :=
  (List.finRange 8).flatMap fun k => [(Reg.rsIl k, 0), (Reg.apid k, 0)]

/-- The reset values of R600's table, the views of `FB` apart. -/
def resetTable : List (Reg × Word) := resetLow ++ (resetMiddle ++ (resetHigh ++ resetIndexed))

/-- The offsets of R600's table up to `RS_RESULT`, in steps of 4 from 0x000. -/
def offsetsLow : List (Nat × Reg) :=
  [(0x000, .coreId), (0x004, .cmd), (0x008, .status), (0x00C, .irqEn), (0x010, .rsCfg), (0x014, .rsGen),
    (0x018, .rsConst), (0x01C, .syncCfg), (0x020, .marker0), (0x024, .marker1), (0x028, .frameLen), (0x02C, .inLen),
    (0x030, .rdptr), (0x034, .syncOff), (0x038, .syncCount), (0x03C, .caduCount), (0x040, .rsResult)]

/-- The offsets of R600's table from `RS_TOT_CORR` to `VCID_MASK1`. -/
def offsetsMiddle : List (Nat × Reg) :=
  [(0x064, .rsTotCorr), (0x068, .rsTotUnc), (0x06C, .rsTotFrames), (0x070, .rsStage), (0x074, .gfRes),
    (0x080, .vcduId), (0x084, .vcduVc), (0x088, .vcduEnc), (0x08C, .mpdu), (0x0A0, .dpCfg), (0x0A4, .dpZone),
    (0x0A8, .dpSkip), (0x0AC, .dpGeom), (0x0B0, .dpFill), (0x0B4, .vcidMask0), (0x0B8, .vcidMask1)]

/-- The offsets of R600's table from `DP_STATE` on. -/
def offsetsHigh : List (Nat × Reg) :=
  [(0x0E0, .dpState), (0x0E4, .dpCursor), (0x0E8, .dpSpan), (0x0EC, .dpPkt), (0x0F0, .dpLines), (0x0F4, .dpInc),
    (0x0F8, .dpProto), (0x0FC, .dpVcSkip), (0x100, .dpApSkip)]

/-- Every register's offset (R600, R48, R62). -/
def registerOffsets : List (Nat × Reg) :=
  offsetsLow ++ (offsetsMiddle ++ (offsetsHigh ++
    (List.finRange 8).flatMap fun k : Fin 8 => [(0x044 + 4 * k.val, Reg.rsIl k), (0x0C0 + 4 * k.val, Reg.apid k)]))

/-- What the registers with one field read as, from the field the commands write (R32, R33, R38, R42 to R46, R49, R51,
R64, R65, R67). -/
def plainReads : List (Reg × (State → Nat)) :=
  [(.coreId, fun _ => 0x52533031), (.cmd, fun s => s.cmd.toNat), (.rsConst, fun _ => 0x0810FF08),
    (.inLen, fun s => s.stream.inLen.toNat), (.rdptr, fun s => s.stream.rdptr.toNat),
    (.syncOff, fun s => s.stream.syncOff.toNat), (.syncCount, fun s => s.stream.syncCount.toNat),
    (.caduCount, fun s => s.stream.caduCount.toNat), (.rsTotCorr, fun s => s.rs.totCorr.toNat),
    (.rsTotUnc, fun s => s.rs.totUnc.toNat), (.rsTotFrames, fun s => s.rs.totFrames.toNat),
    (.gfRes, fun s => s.gfRes.toNat), (.dpCursor, fun s => s.dp.cursor.toNat), (.dpSpan, fun s => s.dp.span.toNat),
    (.dpLines, fun s => s.dp.lines.toNat), (.dpInc, fun s => s.dp.incLines.toNat),
    (.dpProto, fun s => s.dp.proto.toNat), (.dpVcSkip, fun s => s.dp.vcSkip.toNat),
    (.dpApSkip, fun s => s.dp.apSkip.toNat)]

/-- What the configuration registers read as: each field at its bit place, every other bit 0 (R35 to R37, R39, R40, R56,
R58 to R61). -/
def configReads : List (Reg × (CfgRegs → Nat)) :=
  [(.irqEn, fun c => 2 * c.irqEn.doneIe.toNat + 2 ^ 2 * c.irqEn.errIe.toNat + 2 ^ 13 * c.irqEn.lineIe.toNat),
    (.rsCfg, fun c => c.rsCfg.t.toNat + 2 ^ 8 * c.rsCfg.i.toNat + 2 ^ 12 * c.rsCfg.basis.toNat +
      2 ^ 16 * c.rsCfg.vf.toNat + 2 ^ 24 * c.rsCfg.rsEn.toNat + 2 ^ 25 * c.rsCfg.drEn.toNat),
    (.rsGen, fun c => c.rsGen.mo.toNat + 2 ^ 8 * c.rsGen.poa.toNat), (.syncCfg, fun c => c.slen.toNat),
    (.marker0, fun c => c.marker0.toNat), (.marker1, fun c => c.marker1.toNat),
    (.dpCfg, fun c => c.dpCfg.h8.toNat + 2 * c.dpCfg.apidFilt.toNat + 2 ^ 2 * c.dpCfg.zsAuto.toNat),
    (.dpSkip, fun c => c.dpSkip.toNat), (.dpGeom, fun c => c.dpGeom.w.toNat + 2 ^ 16 * c.dpGeom.c.toNat),
    (.dpFill, fun c => c.dpFill.toNat), (.vcidMask0, fun c => c.vcidMask0.toNat),
    (.vcidMask1, fun c => c.vcidMask1.toNat)]

/-- The number of a result code (R502). -/
def codeNumber : ErrCode → BitVec 4
  | .ok => 0
  | .illegal => 1
  | .cfg => 2
  | .range => 3
  | .divZero => 4
  | .seq => 5

/-- The number of a DP state (R340). -/
def phaseNumber : DpPhase → BitVec 2
  | .seek => 0
  | .inPkt => 1
  | .span => 2
  | .lineDone => 3

end Sys2Proof.Claims

open Sys2Proof Sys2Proof.Machine Sys2Proof.Claims

/-! ## Encoding -/

/-- Decoding an encoded well-formed command gives it back, for every command and operand (R132, R133, R139). -/
def Obligations.EncodedCommandDecodesBack : Prop :=
  ∀ i : Instr, i.wf = true → decode (encode i) = .ok i

/-- Every word that decodes is the encoding of the command it stands for, which is well formed: no bit of a word is
dropped (R132, R135). -/
def Obligations.DecodedWordEncodesBack : Prop :=
  ∀ (w : Word) (i : Instr), decode w = .ok i → i.wf = true ∧ encode i = w

/-- A word is a row's command exactly when it matches the row, at most one row matches, and a word that matches none
is illegal (R133, R134, R135). -/
def Obligations.DecodeFollowsOpcodeMap : Prop :=
  (∀ (w : Word) (row : OpcodeRow), row ∈ opcodeMap → (Matches w row ↔ ∃ i, decode w = .ok i ∧ i.mnemonic = row.mnemonic)) ∧
  (∀ (w : Word) (i : Instr), decode w = .ok i → ∃ row ∈ opcodeMap, row.mnemonic = i.mnemonic) ∧
  opcodeMap.Pairwise (fun r r' => ∀ w : Word, ¬ (Matches w r ∧ Matches w r'))

/-- The encoding functions of R139, and the decoding examples of R136. -/
def Obligations.WordsFollowFormats : Prop :=
  (∀ opc : BitVec 6, encN opc = opc.setWidth 32 <<< 26) ∧
  (∀ (opc : BitVec 6) (a : Byte), encA opc a = (opc.setWidth 32 <<< 26) ||| (a.setWidth 32 <<< 8)) ∧
  (∀ (opc : BitVec 6) (a b : Byte),
    encAB opc a b = (opc.setWidth 32 <<< 26) ||| (a.setWidth 32 <<< 8) ||| b.setWidth 32) ∧
  (∀ (opc : BitVec 6) (il : Nat), il < 8 → encIL opc il = (opc.setWidth 32 <<< 26) ||| BitVec.ofNat 32 il) ∧
  (∀ (opc : BitVec 6) (n : Nat), n < 131072 → encNS opc n = (opc.setWidth 32 <<< 26) ||| BitVec.ofNat 32 n) ∧
  (∀ opc : BitVec 6, encLK opc .search = opc.setWidth 32 <<< 26 ∧ encLK opc .locked = (opc.setWidth 32 <<< 26) ||| 1) ∧
  (decode 0x0C000203 = .ok (.gfMul 0x02 0x03) ∧ decode 0x20000002 = .ok (.rsSyn 2) ∧
    decode 0x540003FC = .ok (.syncSkip 1020) ∧ decode 0x60000001 = .ok (.caduRead .locked) ∧
    decode 0xFC000000 = .ok .coreReset ∧ decode 0x04000001 = .error .reservedBitSet ∧
    decode 0x14000000 = .error .unassignedOpcode ∧ decode 0x00000001 = .error .reservedBitSet ∧
    decode 0x60000002 = .error .reservedBitSet)

/-! ## Steps, completion and errors -/

/-- While a command is pending and no host access passes first, the step is the command's own execution, with nothing
added around it; and `withFetchWord`, the model's stand-in for the host's write of `CMD` (log entry 8), places a command
so that the next step runs it (R500, R501). -/
def Obligations.StepRunsPendingCommand : Prop :=
  (∀ (s : State) (i : Instr), s.status.busy = true → (s.host = [] ∨ s.delay = 0) → decode s.pending = .ok i →
    step s = exec i s) ∧
  (∀ (s : State) (i : Instr), i.wf = true →
    step (s.withFetchWord 32 (encode i).toNat) = exec i (s.withPending (encode i)))

/-- When the CORE's step is not next, the step is the host's next access, or idleness when the host has none (R4,
R113, R631). `WAIT` reads `STATUS` and repeats while the value read has bit 0 set (R137). The host's list and the form
of `WAIT` are the model's choice (log entry 5). -/
def Obligations.StepPerformsHostAccess : Prop :=
  ∀ (s : State) (rest : List HostOp), s.status.busy = false ∨ s.delay ≠ 0 →
    let u : State := { s with host := rest, delay := s.delay - 1 }
    (∀ (a : Word) (n : Nat), s.host = .read a n :: rest → step s = .next (u.memRead a n)) ∧
    (∀ (a v : Word) (n : Nat), s.host = .write a n v :: rest → step s = .next (u.memWrite a n v)) ∧
    (s.host = .wait :: rest →
      step s = .next (if (u.memRead 0x008 4).busData.getLsbD 0 = true
        then { u.memRead 0x008 4 with host := .wait :: rest } else u.memRead 0x008 4)) ∧
    (s.status.busy = false → s.host = [] → step s = .next s)

/-- An illegal word completes with ILLEGAL, code 1, and writes nothing else; the illegal words are those that match no
row, and no word of an unassigned opcode matches one (R135, R501). -/
def Obligations.IllegalWordWritesOnlyCompletion : Prop :=
  (∀ s : State, s.status.busy = true → (s.host = [] ∨ s.delay = 0) → (∀ row ∈ opcodeMap, ¬ Matches s.pending row) →
    step s = .next { s with status := doneErr .illegal s.status } ∧
      (({ s with status := doneErr .illegal s.status } : State).readReg .status).extractLsb' 4 4 = 1) ∧
  (∀ w : Word, (∀ row ∈ opcodeMap, ¬ Matches w row) ↔ ∃ e, decode w = .error e) ∧
  (∀ w : Word, opcOf w ∈ [0x05, 0x06, 0x07, 0x0E, 0x0F, 0x11, 0x12, 0x13, 0x16, 0x17, 0x19, 0x1A, 0x1B, 0x1C, 0x1D,
      0x1E, 0x1F] ∨ (0x24 ≤ opcOf w ∧ opcOf w ≤ 0x3E) → ∀ row ∈ opcodeMap, ¬ Matches w row)

/-- Every step of the machine answers a next state: no command blocks, and nothing stops it (R500, R506, R520;
that a faulting access goes on is log entry 3's reading). -/
def Obligations.EveryStepAnswersNext : Prop :=
  ∀ s : State, ∃ t, step s = .next t

/-- Every issued command completes after finitely many host accesses; until then it keeps `BUSY` and the pending word,
and its step sees exactly the state the host left at the issue (R113, R500, R630). The count of accesses that pass first
is the model's form of R630's finite number of polls (log entry 4). -/
def Obligations.IssuedCommandCompletes : Prop :=
  ∀ s : State, s.status.busy = true →
    ∃ n ≤ s.delay, ∃ u : State, Sys2Proof.core.run n s = .next u ∧
      u = { s with hazard := u.hazard, hostBus := u.hostBus, host := u.host, delay := u.delay, busData := u.busData,
                   freeCount := u.freeCount } ∧
      ∃ t : State, step u = .next t ∧ runPending u = .next t ∧ t.status.busy = false ∧ t.status.done = true

/-- A command that completes with an error code writes nothing but the completion fields; one that completes with OK
leaves `ERR` as it was, CORE_RESET apart; and every command clears `BUSY` and sets `DONE` (R503). -/
def Obligations.ErrorsArePrecise : Prop :=
  ∀ (i : Instr) (s : State), ∃ t : State, exec i s = .next t ∧ t.status.busy = false ∧ t.status.done = true ∧
    (t.status.errcode ≠ .ok → t = { s with status := doneErr t.status.errcode s.status }) ∧
    (t.status.errcode = .ok → t.status.err = if i = .coreReset then false else s.status.err)

/-- The code a command completes with is the first failing check of R504's table, ILLEGAL before all; RS_SYN 7 with
`T = 0` and `I = 4` reports CFG, not RANGE. -/
def Obligations.CheckOrderDecidesErrorCode : Prop :=
  (∀ s t : State, s.status.busy = true → (s.host = [] ∨ s.delay = 0) → step s = .next t →
    t.status.errcode = match decode s.pending with
      | .error _ => .illegal
      | .ok i => expectedCode i s) ∧
  (∀ s : State, s.cfg.T = 0 → s.cfg.I = 4 →
    exec (.rsSyn 7) s = .next { s with status := doneErr .cfg s.status })

/-- `DONE` falls only by a host write of 1 to bit 1 of `STATUS`, and `ERR` only by one to bit 2 or by CORE_RESET
(R503, R506, R511). -/
def Obligations.DoneAndErrClearedOnlyByHost : Prop :=
  ∀ s t : State, step s = .next t →
    (s.status.done = true → t.status.done = false →
      ∃ v rest, s.host = .write 0x008 4 v :: rest ∧ v.getLsbD 1 = true) ∧
    (s.status.err = true → t.status.err = false →
      (∃ v rest, s.host = .write 0x008 4 v :: rest ∧ v.getLsbD 2 = true) ∨
        (s.status.busy = true ∧ decode s.pending = .ok .coreReset))

/-! ## The frame -/

/-- Under `CFG_FRAME_OK` the frame fits the buffer, and every byte after the sync bytes is the symbol of exactly one
position of one interleave (R69, R81, R230). -/
def Obligations.CodewordsPartitionTheFrame : Prop :=
  ∀ c : CfgRegs, FrameOk c → c.FLEN ≤ 2048 ∧
    (∀ il p, il < c.I → p < 255 - c.VF → c.S ≤ c.S + p * c.I + il ∧ c.S + p * c.I + il < c.FLEN) ∧
    (∀ k, c.S ≤ k → k < c.FLEN →
      ∃! x : Nat × Nat, x.1 < c.I ∧ x.2 < 255 - c.VF ∧ c.S + x.2 * c.I + x.1 = k)

/-! ## The GF unit -/

/-- The normal-basis antilog table is the powers of `alpha` modulo `0x187`, an antilog index counts modulo 255, every
non-zero byte is an antilog once, and each log table inverts its antilog table, with `LOG[0] = 0` (R201, R202,
R204). -/
def Obligations.GfTablesFollowTheField : Prop :=
  alog false 0 = 0x01 ∧ (∀ i < 254, alog false (i + 1) = timesAlpha (alog false i)) ∧
  (∀ (basis : Bool) (e : Nat), alog basis e = alog basis (e % 255) ∧ gexp basis e = alog basis (e % 255)) ∧
  (∀ (basis : Bool) (x : Byte), x ≠ 0 →
    glog basis x < 255 ∧ alog basis (glog basis x) = x ∧ ∀ i < 255, alog basis i = x → i = glog basis x) ∧
  (∀ (basis : Bool) (e : Nat), alog basis e ≠ 0) ∧ (∀ basis : Bool, glog basis 0 = 0)

/-- The dual-basis antilog table is the normal one through `TAL`, a linear bijection with the rows of R203; and `TAL`
carries the normal product to the dual one (R203, R209). -/
def Obligations.DualTablesAreTransformed : Prop :=
  (∀ i < 255, alog true i = tal (alog false i)) ∧ alog true 255 = 0x7B ∧ alog true 0 = 0x7B ∧
  (∀ x y : Byte, tal (x ^^^ y) = tal x ^^^ tal y) ∧ Function.Bijective tal ∧ tal 0xCC = 0x01 ∧
  (tal 0x01 = 0x7B ∧ tal 0x02 = 0xAF ∧ tal 0x04 = 0x99 ∧ tal 0x08 = 0xFA ∧ tal 0x10 = 0x86 ∧ tal 0x20 = 0xEC ∧
    tal 0x40 = 0xEF ∧ tal 0x80 = 0x8D) ∧
  (∀ x y : Byte, gmul true (tal x) (tal y) = tal (gmul false x y))

/-- The round trips of R208, in both bases. -/
def Obligations.GfRoundTrip : Prop :=
  ∀ basis : Bool,
    (∀ x : Byte, x ≠ 0 → alog basis (glog basis x) = x) ∧ (∀ i < 255, glog basis (alog basis i) = i) ∧
    (∀ x : Byte, x ≠ 0 → gmul basis x (gdiv basis 0x01 x) = 0x01 ∧ gmul basis x (ginv basis x) = gone basis) ∧
    (∀ a x : Byte, x ≠ 0 → gmul basis x (gdiv basis a x) = a)

/-- The field product by its tables, its laws, and its identity in each basis (R205). -/
def Obligations.GfProductLaws : Prop :=
  (∀ (basis : Bool) (a c : Byte), gmul basis a c =
    if a = 0 ∨ c = 0 then 0 else alog basis ((glog basis a + glog basis c) % 255)) ∧
  (∀ (basis : Bool) (a c : Byte), gmul basis a c = gmul basis c a) ∧
  (∀ (basis : Bool) (a c d : Byte), gmul basis (gmul basis a c) d = gmul basis a (gmul basis c d)) ∧
  (∀ (basis : Bool) (a c d : Byte), gmul basis a (c ^^^ d) = gmul basis a c ^^^ gmul basis a d) ∧
  (∀ (basis : Bool) (a : Byte), gmul basis a (alog basis 0) = a) ∧
  alog false 0 = 0x01 ∧ alog true 0 = 0x7B ∧ gmul true 0x01 0x01 = 0x45

/-- The normal-basis product is the product of polynomials in `alpha` modulo the field polynomial `0x187` (R200). -/
def Obligations.NormalProductIsPolynomialProduct : Prop :=
  ∀ a c : Byte, gmul false a c = polyProduct a c

/-- GF_LOG answers the exponent of its operand, 0 with LOG0 for operand 0; GF_EXP the power; GF_MUL the product; GF_DIV
the quotient, the one byte whose product with the divisor is the dividend, and a zero divisor completes with DIVZERO
and keeps `GF_RES`. Each writes `GF_RES`, GF_LOG also LOG0, and nothing else but the completion (R210 to R213). -/
def Obligations.GfCommandResults : Prop :=
  (∀ (a : Byte) (s : State), ∃ v : Byte,
    exec (.gfLog a) s =
      .next { s with gfRes := v, status := { doneOk s.status with log0 := decide (a = 0) } } ∧
    (a = 0 → v = 0) ∧ (a ≠ 0 → v.toNat < 255 ∧ alog s.cfg.rsCfg.basis v.toNat = a)) ∧
  (∀ (a : Byte) (s : State),
    exec (.gfExp a) s =
      .next { s with gfRes := alog s.cfg.rsCfg.basis (a.toNat % 255), status := doneOk s.status }) ∧
  (∀ (a b : Byte) (s : State),
    exec (.gfMul a b) s =
      .next { s with gfRes := gmul s.cfg.rsCfg.basis a b, status := doneOk s.status }) ∧
  (∀ (a b : Byte) (s : State), b ≠ 0 → ∃ q : Byte,
    exec (.gfDiv a b) s = .next { s with gfRes := q, status := doneOk s.status } ∧
    gmul s.cfg.rsCfg.basis q b = a) ∧
  (∀ (a : Byte) (s : State), exec (.gfDiv a 0) s = .next { s with status := doneErr .divZero s.status })

/-! ## The RS unit -/

/-- RS_SYN computes the received polynomial at the code's roots, clears the rest of `SYN`, starts `RS_STAGE` anew, and
writes nothing else (R231, R240, R241). -/
def Obligations.RsSynEvaluatesReceivedPolynomial : Prop :=
  ∀ (s : State) (il : Nat), FrameOk s.cfg → il < s.cfg.I → ∃ t : State,
    exec (.rsSyn il) s = .next t ∧
    t = { s with
      rs := { s.rs with scratch := { s.rs.scratch with syn := t.rs.scratch.syn },
                        stage := ⟨0, 0, false, 0, t.rs.stage.synNz, BitVec.ofNat 3 il⟩ },
      status := doneOk s.status } ∧
    (∀ i < 32, t.syn i = if i < 2 * s.cfg.T then receivedAt s il (s.cfg.POA * (s.cfg.MO + i)) else 0) ∧
    (t.rs.stage.synNz = true ↔ ∃ i < 2 * s.cfg.T, t.syn i ≠ 0)

/-- RS_BM writes `SIGMA`, `RS_STAGE.L` and, when `L > T`, the first cause: `SIGMA` and `L` are those of R242's loop after
`2T` turns; the locator starts with `ONE` and has degree at most `L <= 2T`; a zero syndrome gives `L = 0` (R242). -/
def Obligations.RsBmCompletes : Prop :=
  ∀ s : State, RsOk s.cfg →
    let b := berlekampMassey s.basis s.syn (2 * s.cfg.T)
    ∃ t : State, exec .rsBm s = .next t ∧ b.len ≤ 2 * s.cfg.T ∧
    t = { s with
      rs := { s.rs with scratch := { s.rs.scratch with sigma := t.rs.scratch.sigma },
                        stage := flagged { s.rs.stage with l := BitVec.ofNat 6 b.len } (decide (s.cfg.T < b.len)) 1 },
      status := doneOk s.status } ∧
    (∀ j < 34, t.sigma j = if j ≤ 2 * s.cfg.T then b.sig j else 0) ∧
    t.sigma 0 = gone s.basis ∧ (∀ j, b.len < j → j < 34 → t.sigma j = 0) ∧
    ((∀ i < 2 * s.cfg.T, s.syn i = 0) → b.len = 0)

/-- The polynomial RS_BM leaves satisfies the syndrome recurrence: `SIGMA`, of the degree in `RS_STAGE.L`, annihilates
every run of `L + 1` syndrome components; and `L` is minimal: no polynomial with constant term `ONE` satisfies a shorter
recurrence (§4.2 step 2, R242). -/
def Obligations.RsBmSolvesSyndromeRecurrence : Prop :=
  ∀ s t : State, RsOk s.cfg → exec .rsBm s = .next t →
    Recurrence s.basis s.syn (2 * s.cfg.T) t.rs.stage.l.toNat t.sigma ∧
    ∀ (len : Nat) (c : Nat → Byte), c 0 = gone s.basis → Recurrence s.basis s.syn (2 * s.cfg.T) len c →
      t.rs.stage.l.toNat ≤ len

/-- RS_CHIEN lists the real locations at which the locator vanishes, in stream order (descending), records the first
32, counts them, and flags a count other than `L` (R244, R245). -/
def Obligations.RsChienFindsLocatorRoots : Prop :=
  ∀ s : State, RsOk s.cfg → ∃ (t : State) (roots : List Nat),
    exec .rsChien s = .next t ∧
    roots.Pairwise (fun l l' => l' < l) ∧ (∀ l, l ∈ roots ↔ l + s.cfg.VF ≤ 254 ∧ locatorAt s l = 0) ∧
    t = { s with
      rs := { s.rs with scratch := { s.rs.scratch with loc := t.rs.scratch.loc },
                        stage := flagged { s.rs.stage with nloc := BitVec.ofNat 8 roots.length }
                          (decide (roots.length ≠ s.rs.stage.l.toNat)) 2 },
      status := doneOk s.status } ∧
    roots.length ≤ 255 ∧ (∀ k < 32, t.loc k = BitVec.ofNat 8 (roots.getD k 0))

/-- RS_FORNEY computes the evaluator `sigma(z) S(z) mod z^2T` and, at each located error, the magnitude
`X^(1-MO) Omega(X^-1) / sigma'(X^-1)`; a zero derivative gives 0 and the flag (R246, R247). -/
def Obligations.RsForneyComputesMagnitudes : Prop :=
  ∀ s : State, RsOk s.cfg → ∃ t : State,
    exec .rsForney s = .next t ∧
    t = { s with
      rs := { s.rs with scratch := { s.rs.scratch with omega := t.rs.scratch.omega, mag := t.rs.scratch.mag },
                        stage := flagged s.rs.stage
                          (decide (∃ k < min s.rs.stage.nloc.toNat 32, derivativeAt s (s.loc k).toNat = 0)) 3 },
      status := doneOk s.status } ∧
    (∀ i < 32, t.omega i = if i < 2 * s.cfg.T
      then xorOver (List.range (i + 1)) (fun j => gmul s.basis (s.sigma j) (s.syn (i - j))) else 0) ∧
    (∀ k < 32, t.mag k = if k < min s.rs.stage.nloc.toNat 32 then errorValue t (s.loc k).toNat else 0)

/-- RS_CORR changes nothing on an uncorrectable codeword; else each `LOC` entry that names a position of the codeword
adds its magnitude to that symbol, and every other byte is unchanged. Run again with the same scratch it undoes the
correction (R248). -/
def Obligations.RsCorrAppliesMagnitudes : Prop :=
  ∀ (s : State) (il : Nat), FrameOk s.cfg → il < s.cfg.I → ∃ t u : State,
    exec (.rsCorr il) s = .next t ∧ t = { s with mem := t.mem, status := doneOk s.status } ∧
    (s.rs.stage.uncorr = true → t.mem = s.mem) ∧
    (s.rs.stage.uncorr = false → ∀ a : Nat, t.byteAt a = s.byteAt a ^^^
      xorOver ((List.range (min s.rs.stage.nloc.toNat 32)).filter fun k =>
        decide ((s.loc k).toNat + s.cfg.VF ≤ 254 ∧
          0x1000 + s.cfg.S + (254 - (s.loc k).toNat - s.cfg.VF) * s.cfg.I + il = a)) s.mag) ∧
    exec (.rsCorr il) t = .next u ∧ ∀ a, u.byteAt a = s.byteAt a

/-- RS_DECODE is the composition of the stage commands a host would issue: the same `FB`, scratch and `RS_STAGE`; the
results, the per-interleave registers and the totals are its own (R251). -/
def Obligations.RsDecodeIsStageComposition : Prop :=
  ∀ s : State, FrameOk s.cfg → ∃ t : State, exec .rsDecode s = .next t ∧
    let h := (List.range s.cfg.I).foldl stagesByHost s
    t.mem = h.mem ∧ t.rs.scratch = h.rs.scratch ∧ t.rs.stage = h.rs.stage ∧
    h.rs.result = s.rs.result ∧ h.rs.ils = s.rs.ils ∧ h.rs.totCorr = s.rs.totCorr ∧ h.rs.totUnc = s.rs.totUnc ∧
    h.rs.totFrames = s.rs.totFrames

/-- RS_DECODE writes the RS registers and `FB[S .. FLEN-1]` only, and its report adds up: each interleave is clean,
corrected or uncorrectable as its stages leave `RS_STAGE` (clean where `SYN_NZ = 0`, uncorrectable where `UNCORR = 1`,
else corrected with `CNT = L`), `CORR` and `UNC` are the sums, `ALLCLEAN` says every interleave was clean, and the totals
advance by them (R250). -/
def Obligations.RsDecodeReportAddsUp : Prop :=
  ∀ s : State, FrameOk s.cfg → ∃ t : State, exec .rsDecode s = .next t ∧
    t = { s with rs := t.rs, mem := t.mem, status := doneOk s.status } ∧
    (∀ a, a < 0x1000 + s.cfg.S ∨ 0x1000 + s.cfg.FLEN ≤ a → t.byteAt a = s.byteAt a) ∧
    (∀ k : Fin 8, s.cfg.I ≤ k.val → t.rs.ils[k] = ⟨0, false, false⟩) ∧
    (∀ k : Fin 8, k.val < s.cfg.I → t.rs.ils[k].cnt.toNat ≤ s.cfg.T ∧
      (t.rs.ils[k].uncorr = true ∨ t.rs.ils[k].clean = true → t.rs.ils[k].cnt = 0) ∧
      ¬ (t.rs.ils[k].uncorr = true ∧ t.rs.ils[k].clean = true) ∧
      let stage := ((List.range (k.val + 1)).foldl stagesByHost s).rs.stage
      (t.rs.ils[k].clean = true ↔ stage.synNz = false) ∧ (t.rs.ils[k].uncorr = true ↔ stage.uncorr = true) ∧
      (stage.synNz = true → stage.uncorr = false → t.rs.ils[k].cnt.toNat = stage.l.toNat)) ∧
    t.rs.result.corr.toNat = ((List.finRange 8).map fun k : Fin 8 => t.rs.ils[k].cnt.toNat).sum ∧
    t.rs.result.unc.toNat = ((List.finRange 8).filter fun k : Fin 8 => t.rs.ils[k].uncorr).length ∧
    (t.rs.result.allClean = true ↔ ∀ k : Fin 8, k.val < s.cfg.I → t.rs.ils[k].clean = true) ∧
    t.rs.totCorr = s.rs.totCorr + t.rs.result.corr.setWidth 32 ∧
    t.rs.totUnc = s.rs.totUnc + t.rs.result.unc.setWidth 32 ∧ t.rs.totFrames = s.rs.totFrames + 1

/-- RS_DECODE leaves the symbols of a clean or an uncorrectable interleave as they were: an uncorrectable codeword is
not corrupted further (R248, R250, R252). -/
def Obligations.RsDecodeLeavesUncorrectableCodewords : Prop :=
  ∀ s t : State, FrameOk s.cfg → exec .rsDecode s = .next t → ∀ k : Fin 8, k.val < s.cfg.I →
    t.rs.ils[k].uncorr = true ∨ t.rs.ils[k].clean = true →
    ∀ p < 255 - s.cfg.VF, symbol t k.val p = symbol s k.val p

/-- A frame of valid codewords decodes clean: nothing is corrected, and no byte changes (R252 (a)). -/
def Obligations.ValidFrameDecodesClean : Prop :=
  ∀ s : State, FrameOk s.cfg → (∀ il < s.cfg.I, ValidCodeword s il) → ∃ t : State, exec .rsDecode s = .next t ∧
    t.mem = s.mem ∧ t.rs.stage.synNz = false ∧ t.rs.result = ⟨0, 0, true⟩ ∧
    ∀ k : Fin 8, k.val < s.cfg.I → t.rs.ils[k] = ⟨0, false, true⟩

/-- One symbol error in each interleave, wherever it lies, is corrected: RS_DECODE gives back the frame of valid
codewords, and counts the interleaves that had an error (R252 (b), for one error in a codeword). -/
def Obligations.SingleSymbolErrorsAreCorrected : Prop :=
  ∀ s₀ s : State, FrameOk s.cfg → s₀.cfg = s.cfg → (∀ il < s.cfg.I, ValidCodeword s₀ il) →
    (∀ il < s.cfg.I, ∃ p, ∀ p' < 255 - s.cfg.VF, p' ≠ p → symbol s il p' = symbol s₀ il p') →
    ∃ t : State, exec .rsDecode s = .next t ∧
      (∀ il < s.cfg.I, ∀ p < 255 - s.cfg.VF, symbol t il p = symbol s₀ il p) ∧ t.rs.result.unc = 0 ∧
      t.rs.result.corr.toNat = ((List.range s.cfg.I).filter fun il =>
        decide (∃ p < 255 - s.cfg.VF, symbol s il p ≠ symbol s₀ il p)).length

/-! ## The DR and SYNC units -/

/-- The mask is what the PN generator makes, with period 255 bytes; DR_APPLY adds it to `FB[S .. FLEN-1]`, restarting
at its first byte, and changes nothing else (R280 to R283). -/
def Obligations.DrApplyMasksTheFrame : Prop :=
  (∀ k : Nat, pnByte k = pnGenerated k ∧ pnByte k = pnByte (k % 255)) ∧
  (∀ s : State, FrameOk s.cfg → ∃ t : State, exec .drApply s = .next t ∧
    t = { s with mem := t.mem, status := doneOk s.status } ∧
    (∀ a, t.byteAt a = if 0x1000 + s.cfg.S ≤ a ∧ a < 0x1000 + s.cfg.FLEN
      then s.byteAt a ^^^ pnGenerated ((a - (0x1000 + s.cfg.S)) % 255) else s.byteAt a))

/-- DR_APPLY twice leaves every byte as it was (R284). -/
def Obligations.DrApplyTwiceIsIdentity : Prop :=
  ∀ s : State, FrameOk s.cfg → ∃ t u : State, exec .drApply s = .next t ∧ exec .drApply t = .next u ∧
    ∀ a, u.byteAt a = s.byteAt a

/-- SYNC_FIND either stops right after a full marker match at or after `RDPTR` and before `IN_LEN`, or ends the
stream; it writes `RDPTR`, `SYNC_OFF`, `SYNC_COUNT` and the four stream flags only. Which of the two is R290's loop: it
stops where the partial-match index first reaches `S`, and ends the stream when it never does; a marker that lies at
`RDPTR` is found (R40, R290, R291). -/
def Obligations.SyncFindStopsAfterMarker : Prop :=
  ∀ s : State, SyncOk s.cfg →
    ((∃ r : Nat, s.rdptr + s.cfg.S ≤ r ∧ r ≤ s.inLen ∧
        (∀ j < s.cfg.S, s.inByte (r - s.cfg.S + j) = markerByte s.cfg j) ∧
        exec .syncFind s = .next (syncFound s r)) ∨
      exec .syncFind s = .next (syncEnded s)) ∧
    (∀ n, FoundAfter s n → exec .syncFind s = .next (syncFound s (s.rdptr + n))) ∧
    ((∀ n, ¬ FoundAfter s n) → exec .syncFind s = .next (syncEnded s)) ∧
    (s.rdptr + s.cfg.S ≤ s.inLen → (∀ j < s.cfg.S, s.inByte (s.rdptr + j) = markerByte s.cfg j) →
      exec .syncFind s = .next (syncFound s (s.rdptr + s.cfg.S)))

/-- With the marker `1A CF FC 1D`, which cannot overlap itself, SYNC_FIND stops at the first occurrence from `RDPTR`
on, and ends the stream only when there is none (R290, R292). -/
def Obligations.DefaultMarkerSearchIsComplete : Prop :=
  ∀ s t : State, s.cfg.slen = 4 → s.cfg.marker0 = 0x1DFCCF1A → exec .syncFind s = .next t →
    let mk : List Byte := [0x1A, 0xCF, 0xFC, 0x1D]
    (t.status.found = true → ∀ r, s.rdptr + 4 ≤ r → r < t.rdptr → ∃ j < 4, s.inByte (r - 4 + j) ≠ mk.getD j 0) ∧
    (t.status.found = false → ∀ r, s.rdptr + 4 ≤ r → r ≤ s.inLen → ∃ j < 4, s.inByte (r - 4 + j) ≠ mk.getD j 0)

/-- SYNC_SKIP moves `RDPTR` by its operand, or to `IN_LEN` with EOS when that lies beyond it, and writes the four
stream flags (R293). -/
def Obligations.SyncSkipMovesReadPointer : Prop :=
  ∀ (s : State) (n : Nat), exec (.syncSkip n) s = .next { s with
    stream := { s.stream with
      rdptr := if s.rdptr + n ≤ s.inLen then BitVec.ofNat 17 (s.rdptr + n) else s.stream.inLen },
    status := { doneOk s.status with
      eos := decide (s.inLen < s.rdptr + n), short := false, found := false, lockMiss := false } }

/-! ## The CADU unit -/

/-- CADU_READ has exactly one of its three outcomes, success, end of stream or a short read; it writes the stream
flags, `FRAME_VALID`, the stream registers other than `IN_LEN`, on success the RS registers, and no byte outside
`FB[0 .. FLEN-1]`. The stream ends in locked mode exactly when `RDPTR` has reached `IN_LEN`, and in search mode exactly
when R290's loop finds no marker, which `FOUND` says too; the end of the stream moves `RDPTR` only and clears `LOCK_MISS` (R290, R312 to R315). -/
def Obligations.CaduReadOutcomes : Prop :=
  ∀ (s : State) (lk : ReadMode), s.dp.phase ≠ .lineDone → FrameOk s.cfg → ∃ t : State,
    exec (.caduRead lk) s = .next t ∧
    t = { s with
      status := { doneOk s.status with eos := t.status.eos, short := t.status.short, found := t.status.found,
                                       frameValid := t.status.frameValid, lockMiss := t.status.lockMiss },
      stream := { t.stream with inLen := s.stream.inLen }, rs := t.rs, mem := t.mem } ∧
    (∀ a, a < 0x1000 ∨ 0x1000 + s.cfg.FLEN ≤ a → t.byteAt a = s.byteAt a) ∧
    (t.rs = s.rs ∨ (t.status.frameValid = true ∧ s.cfg.rsCfg.rsEn = true)) ∧
    ((t.status.eos = false ∧ t.status.short = false ∧ t.status.frameValid = true ∧
        t.stream.caduCount = s.stream.caduCount + 1) ∨
      (t.status.eos = true ∧ t.status.short = false ∧ t.status.frameValid = false ∧
        t.status.lockMiss = false ∧ t.stream = { s.stream with rdptr := s.stream.inLen } ∧ t.mem = s.mem) ∨
      (t.status.eos = false ∧ t.status.short = true ∧ t.status.frameValid = false ∧
        t.stream.rdptr = s.stream.inLen ∧ t.stream.caduCount = s.stream.caduCount)) ∧
    (lk = .locked → t.status.found = false ∧ t.stream.syncCount = s.stream.syncCount ∧
      (t.status.eos = true ↔ s.inLen ≤ s.rdptr)) ∧
    (lk = .search → t.status.lockMiss = false ∧ t.status.found = !t.status.eos ∧
      (t.status.eos = true ↔ ∀ n, ¬ FoundAfter s n))

/-- With `DR_EN = RS_EN = 0` and a whole frame in the stream, CADU_READ copies it unchanged: from `RDPTR` in locked
mode, reporting a difference from the marker, and from the marker that R290's loop finds in search mode. A short read
copies the bytes there are, keeps every other byte, runs neither stage, and leaves `RDPTR` at `IN_LEN`; in search mode it
has found and counted the marker, in locked mode it compares the marker bytes there are and moves `SYNC_OFF` where all of
them are (R290, R312 to R314). -/
def Obligations.CaduReadCopiesFrame : Prop :=
  (∀ s : State, s.dp.phase ≠ .lineDone → FrameOk s.cfg → s.cfg.rsCfg.drEn = false → s.cfg.rsCfg.rsEn = false →
    (s.rdptr + s.cfg.FLEN ≤ s.inLen → ∃ t : State, exec (.caduRead .locked) s = .next t ∧
      t = { s with
        stream := { s.stream with
          rdptr := BitVec.ofNat 17 (s.rdptr + s.cfg.FLEN), syncOff := BitVec.ofNat 17 (s.rdptr + s.cfg.S),
          caduCount := s.stream.caduCount + 1 },
        status := { doneOk s.status with
          eos := false, short := false, found := false, frameValid := true,
          lockMiss := decide (∃ j < s.cfg.S, s.inByte (s.rdptr + j) ≠ markerByte s.cfg j) },
        mem := t.mem } ∧
      (∀ k < s.cfg.FLEN, t.fb k = s.inByte (s.rdptr + k))) ∧
    (∀ n, FoundAfter s n → let r := s.rdptr + n
      r + (s.cfg.FLEN - s.cfg.S) ≤ s.inLen → ∃ t : State,
      exec (.caduRead .search) s = .next t ∧
      t = { s with
        stream := { s.stream with
          rdptr := BitVec.ofNat 17 (r + (s.cfg.FLEN - s.cfg.S)), syncOff := BitVec.ofNat 17 r,
          syncCount := s.stream.syncCount + 1, caduCount := s.stream.caduCount + 1 },
        status := { doneOk s.status with
          eos := false, short := false, found := true, frameValid := true, lockMiss := false },
        mem := t.mem } ∧
      (∀ k < s.cfg.FLEN, t.fb k = s.inByte (r - s.cfg.S + k)))) ∧
  (∀ s : State, s.dp.phase ≠ .lineDone → FrameOk s.cfg →
    (s.rdptr < s.inLen → s.inLen < s.rdptr + s.cfg.FLEN → ∃ t : State,
      exec (.caduRead .locked) s = .next t ∧
      t = { s with
        stream := { s.stream with
          rdptr := s.stream.inLen,
          syncOff := if s.inLen < s.rdptr + s.cfg.S then s.stream.syncOff else BitVec.ofNat 17 (s.rdptr + s.cfg.S) },
        status := { doneOk s.status with
          eos := false, short := true, found := false, frameValid := false,
          lockMiss := decide (∃ j < min (s.inLen - s.rdptr) s.cfg.S,
            s.inByte (s.rdptr + j) ≠ markerByte s.cfg j) },
        mem := t.mem } ∧
      ∀ a, t.byteAt a = if 0x1000 ≤ a ∧ a < 0x1000 + (s.inLen - s.rdptr)
        then s.inByte (s.rdptr + (a - 0x1000)) else s.byteAt a) ∧
    (∀ n, FoundAfter s n → let r := s.rdptr + n
      s.inLen < r + (s.cfg.FLEN - s.cfg.S) → ∃ t : State,
      exec (.caduRead .search) s = .next t ∧
      t = { s with
        stream := { s.stream with
          rdptr := s.stream.inLen, syncOff := BitVec.ofNat 17 r, syncCount := s.stream.syncCount + 1 },
        status := { doneOk s.status with
          eos := false, short := true, found := true, frameValid := false, lockMiss := false },
        mem := t.mem } ∧
      ∀ a, t.byteAt a = if 0x1000 ≤ a ∧ a < 0x1000 + (s.cfg.S + (s.inLen - r))
        then s.inByte (r - s.cfg.S + (a - 0x1000)) else s.byteAt a))

/-- CADU_READ is copy, then derandomize, then decode: the same `FB` and RS registers as a read with both disabled,
followed on success by DR_APPLY where `DR_EN` is 1 and then RS_DECODE where `RS_EN` is 1 (R316). -/
def Obligations.CaduReadIsCopyDerandomizeDecode : Prop :=
  ∀ (s : State) (lk : ReadMode), s.dp.phase ≠ .lineDone → FrameOk s.cfg →
    let plain : State := { s with cfg := { s.cfg with rsCfg := { s.cfg.rsCfg with drEn := false, rsEn := false } } }
    ∃ t c : State, exec (.caduRead lk) s = .next t ∧ exec (.caduRead lk) plain = .next c ∧
      t.stream = c.stream ∧ t.status = c.status ∧
      let u : State := { c with cfg := s.cfg }
      let u := if c.status.frameValid && s.cfg.rsCfg.drEn then after .drApply u else u
      let u := if c.status.frameValid && s.cfg.rsCfg.rsEn then after .rsDecode u else u
      t.mem = u.mem ∧ t.rs = u.rs

/-! ## The DP unit -/

/-- DP_FRAME writes the DP registers and `SL[0 .. WC-1]` only, leaves the unit in SEEK, SPAN or LINE_DONE, and its
counters advance by at most one (R341, R360). -/
def Obligations.DpFrameWritesOnlyDpAndLine : Prop :=
  ∀ s : State, s.dp.phase ≠ .lineDone → DpOk s.cfg → ∃ t : State, exec .dpFrame s = .next t ∧
    t = { s with dp := t.dp, mem := t.mem, status := doneOk s.status } ∧
    (∀ a, a < 0x20000 ∨ 0x20000 + 2 * s.cfg.WC ≤ a → t.byteAt a = s.byteAt a) ∧
    (s.dp.phase ≠ .inPkt → t.dp.phase ≠ .inPkt) ∧
    (t.dp.lines = s.dp.lines ∨ (t.dp.lines = s.dp.lines + 1 ∧ t.dp.phase = .lineDone)) ∧
    (t.dp.incLines = s.dp.incLines ∨ (t.dp.incLines = s.dp.incLines + 1 ∧ t.dp.inc = true)) ∧
    (t.dp.proto = s.dp.proto ∨ t.dp.proto = s.dp.proto + 1) ∧
    (t.dp.vcSkip = s.dp.vcSkip ∨ t.dp.vcSkip = s.dp.vcSkip + 1) ∧
    (t.dp.apSkip = s.dp.apSkip ∨ t.dp.apSkip = s.dp.apSkip + 1)

/-- Frames that begin and continue no line: a frame of another virtual channel changes only `DP_VCSKIP`, in any state
but LINE_DONE; in SEEK, the sentinel `FHP` changes nothing, a pointer past the zone counts a protocol inconsistency,
and a packet the filter rejects is counted after its header is read (R343, R346, R347, R354 (a), R360). -/
def Obligations.DpFrameWithoutPacket : Prop :=
  (∀ s : State, s.dp.phase ≠ .lineDone → DpOk s.cfg → ¬ Matching s →
    exec .dpFrame s = .next { s with dp := { s.dp with vcSkip := s.dp.vcSkip + 1 }, status := doneOk s.status }) ∧
  (∀ s : State, s.dp.phase = .seek → DpOk s.cfg → Matching s →
    (headerPointer s = 0x7FF → exec .dpFrame s = .next { s with status := doneOk s.status }) ∧
    (headerPointer s ≠ 0x7FF → zs s ≤ headerPointer s →
      exec .dpFrame s = .next { s with dp := { s.dp with proto := s.dp.proto + 1 }, status := doneOk s.status }) ∧
    (headerPointer s < zs s → ¬ Wanted s (headerPointer s) →
      exec .dpFrame s = .next { s with
        dp := { headerRead s (headerPointer s) with apSkip := s.dp.apSkip + 1 }, status := doneOk s.status }))

/-- In SEEK, a matching frame whose zone starts a wanted packet begins a line: the cells take `DP_FILL`, then each
whole 10-bit sample of the zone from `FHP + DP_SKIP` on, most significant bit first, as many as the line holds. The
line ends complete, or spans with the partial sample's byte carried, or, where the payload starts beyond the zone,
spans at once (R344 to R353). -/
def Obligations.DpFrameStartsLine : Prop :=
  ∀ s : State, s.dp.phase = .seek → DpOk s.cfg → Matching s → headerPointer s < zs s →
    Wanted s (headerPointer s) →
    let start := headerPointer s + s.cfg.dpSkip.toNat
    let n := samplesIn (zs s - start) 0
    let d : DpRegs := { headerRead s (headerPointer s) with inc := false }
    ∃ t : State, exec .dpFrame s = .next t ∧
      t = { s with
        mem := t.mem,
        dp := if zs s ≤ start
          then { d with phase := .span, span := BitVec.ofNat 17 (start - zs s), cursor := 0, shift2 := 3, carryV := false }
          else if s.cfg.WC ≤ n then completed d s.cfg.WC (10 * s.cfg.WC) (start + (10 * s.cfg.WC + 7) / 8)
          else spanned s d n (10 * n) (zs s - start),
        status := doneOk s.status } ∧
      (∀ i < s.cfg.WC, t.sl i = if i < n then BitVec.ofNat 16 (sampleAt (fun k => zoneByte s (start + k)) (10 * i))
        else s.cfg.dpFill) ∧
      (∀ a, a < 0x20000 ∨ 0x20000 + 2 * s.cfg.WC ≤ a → t.byteAt a = s.byteAt a)

/-- In SPAN, a matching frame continues the line from `DP_SPAN`, whatever its header pointer says: the samples are the
10-bit fields of the carried byte followed by the zone, the cells already written stay, and the line ends complete or
spans again (R349, R351, R355). -/
def Obligations.DpFrameResumesLine : Prop :=
  ∀ s : State, s.dp.phase = .span → DpOk s.cfg → Matching s → s.dp.span.toNat < zs s →
    s.dp.cursor.toNat < s.cfg.WC →
    let carried := if s.dp.carryV then 1 else 0
    let bytes : Nat → Byte := fun k =>
      if k < carried then s.dp.carry else zoneByte s (s.dp.span.toNat + (k - carried))
    let len := carried + (zs s - s.dp.span.toNat)
    let bit := 6 - 2 * s.dp.shift2.toNat
    let first := s.dp.cursor.toNat
    let n := samplesIn len bit
    let m := s.cfg.WC - first
    ∃ t : State, exec .dpFrame s = .next t ∧
      t = { s with
        mem := t.mem,
        dp := if m ≤ n then
            completed s.dp s.cfg.WC (bit + 10 * m) (s.dp.span.toNat + (bit + 10 * m + 7) / 8 - carried)
          else spanned s s.dp (first + n) (bit + 10 * n) len,
        status := doneOk s.status } ∧
      (∀ j < min m n, t.sl (first + j) = BitVec.ofNat 16 (sampleAt bytes (bit + 10 * j))) ∧
      (∀ a, a < 0x20000 + 2 * first ∨ 0x20000 + 2 * (first + min m n) ≤ a → t.byteAt a = s.byteAt a)

/-- In SPAN, a resume offset at or past the zone's end ends the line incomplete and counts a protocol inconsistency;
a line that the host's new geometry has made too short ends complete before any further sample (R349, R354 (b),
R620). A carry byte then pending stays pending in LINE_DONE, by R349's pseudocode and against R341's list: that is the
model's choice (log entry 9). -/
def Obligations.DpFrameEndsLineEarly : Prop :=
  ∀ s : State, s.dp.phase = .span → DpOk s.cfg → Matching s →
    (zs s ≤ s.dp.span.toNat → exec .dpFrame s = .next { s with
      dp := { s.dp with
        phase := .lineDone, inc := true, pos := BitVec.ofNat 11 (zs s), carryV := false, proto := s.dp.proto + 1,
        lines := s.dp.lines + 1, incLines := s.dp.incLines + 1 },
      status := doneOk s.status }) ∧
    (s.dp.span.toNat < zs s → s.cfg.WC ≤ s.dp.cursor.toNat → exec .dpFrame s = .next { s with
      dp := { s.dp with
        phase := .lineDone, lines := s.dp.lines + 1,
        pos := BitVec.ofNat 11 (if s.dp.shift2 = 3 then s.dp.span.toNat else s.dp.span.toNat + 1) },
      status := doneOk s.status })

/-- DP_ACK releases the held line, then searches the frame still in `FB` from `POS`: where the packet at `FHP` starts
there, it does what DP_FRAME does from the released state; else only the release, and a pointer past the zone, remain
(R362). -/
def Obligations.DpAckReleasesAndSeeks : Prop :=
  ∀ s : State, s.dp.phase = .lineDone → DpOk s.cfg →
    let d : DpRegs := { s.dp with phase := .seek, inc := false, cursor := 0, shift2 := 3, carryV := false }
    let released : State := { s with dp := d }
    (¬ Matching s ∨ headerPointer s = 0x7FF ∨ (headerPointer s < zs s ∧ headerPointer s < s.dp.pos.toNat) →
      exec .dpAck s = .next { released with status := doneOk s.status }) ∧
    (Matching s → headerPointer s ≠ 0x7FF → zs s ≤ headerPointer s →
      exec .dpAck s = .next { released with dp := { d with proto := d.proto + 1 }, status := doneOk s.status }) ∧
    (Matching s → headerPointer s ≠ 0x7FF → headerPointer s < zs s → s.dp.pos.toNat ≤ headerPointer s →
      ∃ t : State, exec .dpAck s = .next t ∧ exec .dpFrame released = .next t)

/-- DP_FLUSH ends a spanning line as incomplete and changes nothing in the other states. DP_RESET makes `DP_STATE`
0x0000000C, `DP_CURSOR` and `DP_SPAN` 0, and keeps every other register and the memory (R352, R364, R366). -/
def Obligations.DpFlushAndResetEndTheLine : Prop :=
  (∀ s : State, DpOk s.cfg → exec .dpFlush s = .next { s with
    dp := if s.dp.phase = .span
      then { s.dp with phase := .lineDone, inc := true, pos := BitVec.ofNat 11 (zs s), carryV := false,
                       lines := s.dp.lines + 1, incLines := s.dp.incLines + 1 }
      else s.dp,
    status := doneOk s.status }) ∧
  (∀ s : State, ∃ t : State, exec .dpReset s = .next t ∧
    t = { s with
      dp := { s.dp with phase := t.dp.phase, shift2 := t.dp.shift2, carryV := t.dp.carryV, carry := t.dp.carry,
                        inc := t.dp.inc, pos := t.dp.pos, cursor := t.dp.cursor, span := t.dp.span },
      status := doneOk s.status } ∧
    t.readReg .dpState = 0x0000000C ∧ t.readReg .dpCursor = 0 ∧ t.readReg .dpSpan = 0)

/-! ## Control, reset and the whole machine -/

/-- NOP writes only the completion. CORE_RESET puts every register but `CMD` and `STATUS` at its power-on value and
zeroes the scratch; `CMD` reads its word, `STATUS` is DONE alone, and the memories, the fault marks and the host keep
their values (R400, R402, R602). -/
def Obligations.NopAndCoreReset : Prop :=
  (∀ s : State, exec .nop s = .next { s with status := doneOk s.status }) ∧
  (∀ s : State, ∃ t : State, exec .coreReset s = .next t ∧
    t = { s with cmd := 0xFC000000, status := t.status, cfg := State.reset.cfg, stream := State.reset.stream,
                 rs := State.reset.rs, gfRes := State.reset.gfRes, dp := State.reset.dp } ∧
    t.readReg .status = 0x00000002 ∧
    (∀ x ∈ resetTable, x.1 ≠ .cmd → x.1 ≠ .status → t.readReg x.1 = x.2) ∧
    (∀ i < 34, t.syn i = 0 ∧ t.sigma i = 0 ∧ t.omega i = 0 ∧ t.loc i = 0 ∧ t.mag i = 0))

/-- The power-on reset puts every register at the value of R600's table, with nothing pending, the marks clear and the
scratch zero; `MPDU.ZSTART` reads 8. -/
def Obligations.ResetRegisterValues : Prop :=
  (∀ x ∈ resetTable, State.reset.readReg x.1 = x.2) ∧
  (State.reset.readReg .mpdu).extractLsb' 16 8 = 8 ∧
  State.reset.status.busy = false ∧ State.reset.pending = 0 ∧ State.reset.hazard = false ∧
  State.reset.hostBus = false ∧
  (∀ i < 34, State.reset.syn i = 0 ∧ State.reset.sigma i = 0 ∧ State.reset.omega i = 0 ∧ State.reset.loc i = 0 ∧
    State.reset.mag i = 0)

/-- The state after the power-on reset satisfies the model's invariant, and R341's list as R341 words it. -/
def Obligations.ResetSatisfiesInvariant : Prop :=
  State.reset.Inv ∧ State.reset.LineInv

/-- Every step keeps the invariant: the RAM stays in canonical form inside its windows, `IN_LEN` stays clamped (R42),
and between steps the DP unit satisfies R341, with log entry 9's reading of a held line. Every step but a host write
that shortens a line in SPAN, which R341 excepts, also keeps R341's list as R341 words it: LINE_DONE has no carry
byte, a carry byte is pending only in SPAN at zone offset 0, and SPAN has `CURSOR < WC`. -/
def Obligations.StepKeepsInvariant : Prop :=
  ∀ s t : State, s.Inv → step s = .next t →
    t.Inv ∧ (s.LineInv → s.LineNotShortened t → t.LineInv)

/-- Each command writes only its own unit's state: the configuration and `IN_LEN` belong to the host and CORE_RESET,
and no command writes `IN` (R80); the stream flags and registers belong to the stream commands (R34), `FRAME_VALID` and
`CADU_COUNT` to CADU_READ (R315), LOG0 to GF_LOG, `GF_RES` to the GF commands, the RS registers to the RS commands and
CADU_READ, the DP registers and `SL` to the DP commands, `FB` to RS_CORR, RS_DECODE, DR_APPLY and CADU_READ. -/
def Obligations.CommandsWriteTheirOwnState : Prop :=
  ∀ (i : Instr) (s t : State), exec i s = .next t →
    (i ≠ .coreReset → t.cfg = s.cfg ∧ t.cmd = s.cmd ∧ t.stream.inLen = s.stream.inLen) ∧
    (∀ a, 0x10000 ≤ a → a < 0x20000 → t.byteAt a = s.byteAt a) ∧
    (i ∉ [.syncFind, .caduRead .search, .caduRead .locked, .coreReset] → (∀ n, i ≠ .syncSkip n) →
      t.stream = s.stream ∧ t.status.eos = s.status.eos ∧ t.status.short = s.status.short ∧
      t.status.found = s.status.found ∧ t.status.lockMiss = s.status.lockMiss) ∧
    (i ∉ [.caduRead .search, .caduRead .locked, .coreReset] →
      t.status.frameValid = s.status.frameValid ∧ t.stream.caduCount = s.stream.caduCount) ∧
    ((∀ a, i ≠ .gfLog a) → i ≠ .coreReset → t.status.log0 = s.status.log0) ∧
    ((∀ a, i ≠ .gfLog a ∧ i ≠ .gfExp a) → (∀ a b, i ≠ .gfMul a b ∧ i ≠ .gfDiv a b) → i ≠ .coreReset →
      t.gfRes = s.gfRes) ∧
    (i ∉ [.rsBm, .rsChien, .rsForney, .rsDecode, .caduRead .search, .caduRead .locked, .coreReset] →
      (∀ il, i ≠ .rsSyn il) → t.rs = s.rs) ∧
    (i ∉ [.dpFrame, .dpAck, .dpFlush, .dpReset, .coreReset] → t.dp = s.dp) ∧
    (i ∉ [.dpFrame, .dpAck] → ∀ a, 0x20000 ≤ a → t.byteAt a = s.byteAt a) ∧
    (i ∉ [.rsDecode, .drApply, .caduRead .search, .caduRead .locked] → (∀ il, i ≠ .rsCorr il) →
      ∀ a, a < 0x10000 → t.byteAt a = s.byteAt a)

/-- Once set, a fault mark is never cleared (R88). -/
def Obligations.FaultMarksNeverCleared : Prop :=
  ∀ s t : State, step s = .next t →
    (s.hazard = true → t.hazard = true) ∧ (s.hostBus = true → t.hostBus = true)

/-! ## The host bus -/

/-- An access that is not 32 bits wide, not aligned or not mapped sets HOST_BUS; a good access while `BUSY` is 1, other
than a read of `STATUS`, sets HAZARD. Neither has another effect on the CORE, and what a faulting read returns is free
(R100, R101, R103 to R105, R520, R521; log entries 3 and 10). -/
def Obligations.FaultingAccessSetsOnlyItsMark : Prop :=
  ∀ (s : State) (a v : Word) (n : Nat),
    (¬ GoodAccess a n →
      s.memWrite a n v = { s with hostBus := true } ∧
      s.memRead a n = { s with hostBus := true, busData := (s.memRead a n).busData, freeCount := s.freeCount + 1 }) ∧
    (GoodAccess a n → s.status.busy = true →
      s.memWrite a n v = { s with hazard := true } ∧
      (a ≠ 0x008 → s.memRead a n =
        { s with hazard := true, busData := (s.memRead a n).busData, freeCount := s.freeCount + 1 })) ∧
    (GoodAccess a n → s.status.busy = false ∨ a = 0x008 → s.hazard = false → s.hostBus = false →
      s.memRead a n = { s with busData := (s.memRead a n).busData })

/-- No read has an effect on the CORE beyond the mark of a fault, and a repeated identical write to any address other
than `CMD` has the same effect as one (R109). -/
def Obligations.ReadsHaveNoSideEffect : Prop :=
  (∀ (s : State) (a : Word) (n : Nat), s.memRead a n =
    { s with hazard := (s.memRead a n).hazard, hostBus := (s.memRead a n).hostBus,
             busData := (s.memRead a n).busData, freeCount := (s.memRead a n).freeCount }) ∧
  (∀ (s : State) (a v : Word) (n : Nat), a ≠ 0x004 →
    (s.memWrite a n v).memWrite a n v = s.memWrite a n v)

/-- A word written to a RAM window is stored little-endian, its four bytes and no other, and reads back. `FB[i]`, `IN[i]`
and the two bytes of cell `SL[i]`, low byte first, lie at their window addresses, and a read of the `SL` window returns
two cells (R101, R102, R107, R108, R112). -/
def Obligations.RamWordReadsBack : Prop :=
  (∀ (s : State) (i : Nat), s.fb i = s.byteAt (0x1000 + i) ∧ s.inByte i = s.byteAt (0x10000 + i) ∧
    (s.sl i).toNat = (s.byteAt (0x20000 + 2 * i)).toNat + 256 * (s.byteAt (0x20000 + 2 * i + 1)).toNat) ∧
  (∀ (s : State) (k : Nat), k < 8192 → s.status.busy = false → s.hazard = false → s.hostBus = false →
    (s.memRead (BitVec.ofNat 32 (0x20000 + 4 * k)) 4).busData.toNat =
      (s.sl (2 * k)).toNat + 65536 * (s.sl (2 * k + 1)).toNat) ∧
  ∀ (s : State) (a v : Word), a.toNat % 4 = 0 → RamByte a.toNat → s.status.busy = false → s.hazard = false →
    s.hostBus = false →
    let t := s.memWrite a 4 v
    t = { s with mem := t.mem } ∧
    (∀ k < 4, (t.byteAt (a.toNat + k)).toNat = v.toNat / 2 ^ (8 * k) % 256) ∧
    (∀ b, b < a.toNat ∨ a.toNat + 4 ≤ b → t.byteAt b = s.byteAt b) ∧ (t.memRead a 4).busData = v

/-- A word written to the `SYN`, `SIGMA`, `OMEGA`, `LOC` or `MAG` window stores the bytes that lie in the array and no
other; the reserved bytes ignore the write and read 0; the table windows ignore writes and read the tables (R107). -/
def Obligations.ScratchAndTableWindows : Prop :=
  (∀ (s : State) (v : Word) (off : Nat), off % 4 = 0 → off < 64 → s.status.busy = false → s.hazard = false →
    s.hostBus = false → ∀ x ∈ scratchTable,
      let a := BitVec.ofNat 32 (x.1 + off)
      let t := s.memWrite a 4 v
      t = { s with rs := { s.rs with scratch := t.rs.scratch } } ∧
      (∀ y ∈ scratchTable, ∀ i < y.2.1, y.2.2 t i =
        if y.1 = x.1 ∧ off ≤ i ∧ i < off + 4 then v.extractLsb' (8 * (i - off)) 8 else y.2.2 s i) ∧
      (∀ k < 4, (t.memRead a 4).busData.extractLsb' (8 * k) 8 =
        if off + k < x.2.1 then v.extractLsb' (8 * k) 8 else 0)) ∧
  (∀ (s : State) (v : Word) (off : Nat), off % 4 = 0 → off < 256 → s.status.busy = false → s.hazard = false →
    s.hostBus = false → ∀ basis : Bool, ∀ k < 4,
      let base := if basis then 0xE00 else 0xC00
      s.memWrite (BitVec.ofNat 32 (base + off)) 4 v = s ∧
      s.memWrite (BitVec.ofNat 32 (base + 0x100 + off)) 4 v = s ∧
      ((s.memRead (BitVec.ofNat 32 (base + off)) 4).busData.extractLsb' (8 * k) 8 = alog basis (off + k)) ∧
      ((s.memRead (BitVec.ofNat 32 (base + 0x100 + off)) 4).busData.extractLsb' (8 * k) 8 =
        BitVec.ofNat 8 (glog basis (BitVec.ofNat 8 (off + k)))))

/-- The RW bits of a register read back as written, and a register with none ignores the write; a write changes no other
register, the views of R41 and R52 to R55 and the field `EFF` of R57 apart, and no memory. A configuration register
reads as its fields at their bit places, with every reserved bit 0. A write to `STATUS`
clears `DONE` and `ERR` by W1C and nothing else; `IN_LEN` stores the clamped count (R34 to R42,
R56 to R62, R106). -/
def Obligations.RegisterWritesReadBack : Prop :=
  (∀ (s : State) (v : Word) (r : Reg), r ≠ .cmd → r ≠ .status → r ≠ .inLen →
    (s.writeReg v r).readReg r &&& rwBits r = v &&& rwBits r ∧ (rwBits r = 0 → s.writeReg v r = s)) ∧
  (∀ (s : State) (v : Word) (r r' : Reg), r ≠ .cmd → r' ≠ r →
    r' ∉ [.frameLen, .vcduId, .vcduVc, .vcduEnc, .mpdu] →
    (let kept : Word := if r' = .dpZone then 0xF800FFFF else 0xFFFFFFFF
     (s.writeReg v r).readReg r' &&& kept = s.readReg r' &&& kept) ∧ (s.writeReg v r).mem = s.mem ∧
      (s.writeReg v r).rs.scratch = s.rs.scratch) ∧
  (∀ s : State, ∀ x ∈ configReads, (s.readReg x.1).toNat = x.2 s.cfg) ∧
  (∀ (s : State) (k : Fin 8),
    (s.readReg (.apid k)).toNat = s.cfg.apid[k].apid.toNat + 2 ^ 31 * s.cfg.apid[k].v.toNat) ∧
  (∀ (s : State) (v : Word), s.writeReg v .status =
    { s with status := { s.status with done := if v.getLsbD 1 then false else s.status.done,
                                       err := if v.getLsbD 2 then false else s.status.err } }) ∧
  (∀ (s : State) (v : Word), (s.writeReg v .inLen).readReg .inLen =
    BitVec.ofNat 32 (min (v.toNat % 131072) 65536)) ∧
  (∀ (s : State) (w : Word), let t := s.writeReg w .cmd
    t = { s with cmd := w, pending := w, status := { s.status with busy := true }, delay := t.delay,
                 freeCount := s.freeCount + 1 } ∧ t.readReg .cmd = w)

/-- The views read the frame in `FB` live: the identifier, its two parts, the encryption bytes of the 8-byte header,
the header pointer and the zone's start. `FRAME_LEN` and `DP_ZONE.EFF` are computed from the current registers, by the
derived quantities of R68 (R41, R52 to R55, R57, R68, R311). -/
def Obligations.FrameViewsReadFb : Prop :=
  ∀ s : State,
    let id := (256 * (s.fb s.cfg.S).toNat + (s.fb (s.cfg.S + 1)).toNat) % 16384
    (s.readReg .vcduId).toNat = id ∧ (s.readReg .vcduVc).toNat = 256 * (id / 64) + id % 64 ∧
    (s.readReg .vcduEnc).toNat =
      (if s.cfg.dpCfg.h8 then 256 * (s.fb (s.cfg.S + 7)).toNat + (s.fb (s.cfg.S + 6)).toNat else 0) ∧
    (s.readReg .mpdu).toNat = 65536 * (s.cfg.H + 2) + headerPointer s ∧
    s.cfg.H = 6 + 2 * s.cfg.dpCfg.h8.toNat ∧ s.cfg.WC = s.cfg.dpGeom.w.toNat * s.cfg.dpGeom.c.toNat ∧
    s.cfg.FLEN = s.cfg.S + (255 - s.cfg.VF) * s.cfg.I ∧ (s.readReg .frameLen).toNat = s.cfg.FLEN ∧
    (s.readReg .dpZone).toNat = s.cfg.dpZs.toNat +
      65536 * (if 0 ≤ zoneSize s.cfg ∧ zoneSize s.cfg ≤ 2047 then (zoneSize s.cfg).toNat else 0)

/-- An idle host's accesses reach each register at its offset; a read of `STATUS` returns it whether a command is pending
or not, and its bit 0 is `BUSY` (R101, R500, R520, R600). -/
def Obligations.RegistersLieAtTheirOffsets : Prop :=
  (∀ (s : State) (v : Word), s.status.busy = false → s.hazard = false → s.hostBus = false →
    ∀ x ∈ registerOffsets, s.memRead (BitVec.ofNat 32 x.1) 4 = { s with busData := s.readReg x.2 } ∧
      s.memWrite (BitVec.ofNat 32 x.1) 4 v = s.writeReg v x.2) ∧
  (∀ s : State, s.hazard = false → s.hostBus = false →
    s.memRead 0x008 4 = { s with busData := s.readReg .status } ∧
    (s.memRead 0x008 4).busData.getLsbD 0 = s.status.busy)

/-- `STATUS`, the result registers and the DP registers show the state at the bit places of R34, R47, R48, R50, R63 and
R66, `ERRCODE` by the numbers of R502, and their reserved bits read 0; a register with one field reads as the field the
commands write, and the constants as R32 and R38 give them (R33, R42 to R46, R49, R51, R64, R65, R67). -/
def Obligations.StatusAndResultRegistersShowState : Prop :=
  (∀ s : State, let w := s.readReg .status
    w.getLsbD 0 = s.status.busy ∧ w.getLsbD 1 = s.status.done ∧ w.getLsbD 2 = s.status.err ∧
    w.extractLsb' 4 4 = codeNumber s.status.errcode ∧ w.getLsbD 8 = s.status.eos ∧ w.getLsbD 9 = s.status.short ∧
    w.getLsbD 10 = s.status.found ∧ w.getLsbD 11 = s.status.frameValid ∧ w.getLsbD 12 = s.status.lockMiss ∧
    w.getLsbD 13 = decide (s.dp.phase = .lineDone) ∧ w.getLsbD 14 = s.dp.inc ∧ w.getLsbD 15 = s.status.log0 ∧
    w &&& 0xFFFF0008 = 0) ∧
  (∀ s : State, let w := s.readReg .rsResult
    w.extractLsb' 0 8 = s.rs.result.corr ∧ w.extractLsb' 8 4 = s.rs.result.unc ∧
    w.getLsbD 31 = s.rs.result.allClean ∧ w &&& 0x7FFFF000 = 0) ∧
  (∀ (s : State) (k : Fin 8), let w := s.readReg (.rsIl k)
    w.extractLsb' 0 5 = s.rs.ils[k].cnt ∧ w.getLsbD 8 = s.rs.ils[k].uncorr ∧ w.getLsbD 9 = s.rs.ils[k].clean ∧
    w &&& 0xFFFFFCE0 = 0) ∧
  (∀ s : State, let w := s.readReg .rsStage
    w.extractLsb' 0 6 = s.rs.stage.l ∧ w.extractLsb' 8 8 = s.rs.stage.nloc ∧ w.getLsbD 16 = s.rs.stage.uncorr ∧
    w.extractLsb' 17 2 = s.rs.stage.cause ∧ w.getLsbD 20 = s.rs.stage.synNz ∧ w.extractLsb' 24 3 = s.rs.stage.il ∧
    w &&& 0xF8E800C0 = 0) ∧
  (∀ s : State, let w := s.readReg .dpState
    w.extractLsb' 0 2 = phaseNumber s.dp.phase ∧ w.extractLsb' 2 2 = s.dp.shift2 ∧ w.getLsbD 4 = s.dp.carryV ∧
    w.getLsbD 5 = s.dp.inc ∧ w.extractLsb' 8 8 = s.dp.carry ∧ w.extractLsb' 16 11 = s.dp.pos ∧
    w &&& 0xF80000C0 = 0) ∧
  (∀ s : State, let w := s.readReg .dpPkt
    w.extractLsb' 0 11 = s.dp.pktApid ∧ w.extractLsb' 16 14 = s.dp.pktSeq ∧ w &&& 0xC000F800 = 0) ∧
  (∀ s : State, ∀ x ∈ plainReads, (s.readReg x.1).toNat = x.2 s)

/-- The interrupt line is the level `(DONE & DONE_IE) | (ERR & ERR_IE) | (LINE_READY & LINE_IE)` of the `STATUS` and
`IRQ_EN` registers as they read (R510). -/
def Obligations.IrqFollowsStatusAndEnables : Prop :=
  ∀ s : State, s.irq =
    (((s.readReg .status).getLsbD 1 && (s.readReg .irqEn).getLsbD 1) ||
      ((s.readReg .status).getLsbD 2 && (s.readReg .irqEn).getLsbD 2) ||
      ((s.readReg .status).getLsbD 13 && (s.readReg .irqEn).getLsbD 13))
end

