-- ==== Sys2Proof/Laws/State.lean ====
section
/-! SUPPORT. What each named update of the state leaves in each field: one lemma a field, so that no proof unfolds a
record update. -/

namespace Sys2Proof.Machine

variable (s : State)

@[simp] theorem State.complete_cmd (code : ErrCode) : (s.complete code).cmd = s.cmd := rfl
@[simp] theorem State.complete_pending (code : ErrCode) : (s.complete code).pending = s.pending := rfl
@[simp] theorem State.complete_status (code : ErrCode) : (s.complete code).status = s.status.complete code := rfl
@[simp] theorem State.complete_cfg (code : ErrCode) : (s.complete code).cfg = s.cfg := rfl
@[simp] theorem State.complete_stream (code : ErrCode) : (s.complete code).stream = s.stream := rfl
@[simp] theorem State.complete_rs (code : ErrCode) : (s.complete code).rs = s.rs := rfl
@[simp] theorem State.complete_gfRes (code : ErrCode) : (s.complete code).gfRes = s.gfRes := rfl
@[simp] theorem State.complete_dp (code : ErrCode) : (s.complete code).dp = s.dp := rfl
@[simp] theorem State.complete_mem (code : ErrCode) : (s.complete code).mem = s.mem := rfl
@[simp] theorem State.complete_hazard (code : ErrCode) : (s.complete code).hazard = s.hazard := rfl
@[simp] theorem State.complete_hostBus (code : ErrCode) : (s.complete code).hostBus = s.hostBus := rfl
@[simp] theorem State.complete_host (code : ErrCode) : (s.complete code).host = s.host := rfl
@[simp] theorem State.complete_delay (code : ErrCode) : (s.complete code).delay = s.delay := rfl
@[simp] theorem State.complete_busData (code : ErrCode) : (s.complete code).busData = s.busData := rfl
@[simp] theorem State.complete_freeCount (code : ErrCode) : (s.complete code).freeCount = s.freeCount := rfl

@[simp] theorem State.setByte_cmd (a : Nat) (v : Byte) : (s.setByte a v).cmd = s.cmd := rfl
@[simp] theorem State.setByte_pending (a : Nat) (v : Byte) : (s.setByte a v).pending = s.pending := rfl
@[simp] theorem State.setByte_status (a : Nat) (v : Byte) : (s.setByte a v).status = s.status := rfl
@[simp] theorem State.setByte_cfg (a : Nat) (v : Byte) : (s.setByte a v).cfg = s.cfg := rfl
@[simp] theorem State.setByte_stream (a : Nat) (v : Byte) : (s.setByte a v).stream = s.stream := rfl
@[simp] theorem State.setByte_rs (a : Nat) (v : Byte) : (s.setByte a v).rs = s.rs := rfl
@[simp] theorem State.setByte_gfRes (a : Nat) (v : Byte) : (s.setByte a v).gfRes = s.gfRes := rfl
@[simp] theorem State.setByte_dp (a : Nat) (v : Byte) : (s.setByte a v).dp = s.dp := rfl
@[simp] theorem State.setByte_mem (a : Nat) (v : Byte) : (s.setByte a v).mem = s.mem.store a v := rfl
@[simp] theorem State.setByte_hazard (a : Nat) (v : Byte) : (s.setByte a v).hazard = s.hazard := rfl
@[simp] theorem State.setByte_hostBus (a : Nat) (v : Byte) : (s.setByte a v).hostBus = s.hostBus := rfl
@[simp] theorem State.setByte_host (a : Nat) (v : Byte) : (s.setByte a v).host = s.host := rfl
@[simp] theorem State.setByte_delay (a : Nat) (v : Byte) : (s.setByte a v).delay = s.delay := rfl
@[simp] theorem State.setByte_busData (a : Nat) (v : Byte) : (s.setByte a v).busData = s.busData := rfl
@[simp] theorem State.setByte_freeCount (a : Nat) (v : Byte) : (s.setByte a v).freeCount = s.freeCount := rfl

@[simp] theorem State.setFb_cmd (i : Nat) (v : Byte) : (s.setFb i v).cmd = s.cmd := rfl
@[simp] theorem State.setFb_pending (i : Nat) (v : Byte) : (s.setFb i v).pending = s.pending := rfl
@[simp] theorem State.setFb_status (i : Nat) (v : Byte) : (s.setFb i v).status = s.status := rfl
@[simp] theorem State.setFb_cfg (i : Nat) (v : Byte) : (s.setFb i v).cfg = s.cfg := rfl
@[simp] theorem State.setFb_stream (i : Nat) (v : Byte) : (s.setFb i v).stream = s.stream := rfl
@[simp] theorem State.setFb_rs (i : Nat) (v : Byte) : (s.setFb i v).rs = s.rs := rfl
@[simp] theorem State.setFb_gfRes (i : Nat) (v : Byte) : (s.setFb i v).gfRes = s.gfRes := rfl
@[simp] theorem State.setFb_dp (i : Nat) (v : Byte) : (s.setFb i v).dp = s.dp := rfl
@[simp] theorem State.setFb_mem (i : Nat) (v : Byte) : (s.setFb i v).mem = s.mem.store (fbBase + i) v := rfl
@[simp] theorem State.setFb_hazard (i : Nat) (v : Byte) : (s.setFb i v).hazard = s.hazard := rfl
@[simp] theorem State.setFb_hostBus (i : Nat) (v : Byte) : (s.setFb i v).hostBus = s.hostBus := rfl
@[simp] theorem State.setFb_host (i : Nat) (v : Byte) : (s.setFb i v).host = s.host := rfl
@[simp] theorem State.setFb_delay (i : Nat) (v : Byte) : (s.setFb i v).delay = s.delay := rfl
@[simp] theorem State.setFb_busData (i : Nat) (v : Byte) : (s.setFb i v).busData = s.busData := rfl
@[simp] theorem State.setFb_freeCount (i : Nat) (v : Byte) : (s.setFb i v).freeCount = s.freeCount := rfl

@[simp] theorem State.setSl_cmd (i : Nat) (v : BitVec 16) : (s.setSl i v).cmd = s.cmd := rfl
@[simp] theorem State.setSl_pending (i : Nat) (v : BitVec 16) : (s.setSl i v).pending = s.pending := rfl
@[simp] theorem State.setSl_status (i : Nat) (v : BitVec 16) : (s.setSl i v).status = s.status := rfl
@[simp] theorem State.setSl_cfg (i : Nat) (v : BitVec 16) : (s.setSl i v).cfg = s.cfg := rfl
@[simp] theorem State.setSl_stream (i : Nat) (v : BitVec 16) : (s.setSl i v).stream = s.stream := rfl
@[simp] theorem State.setSl_rs (i : Nat) (v : BitVec 16) : (s.setSl i v).rs = s.rs := rfl
@[simp] theorem State.setSl_gfRes (i : Nat) (v : BitVec 16) : (s.setSl i v).gfRes = s.gfRes := rfl
@[simp] theorem State.setSl_dp (i : Nat) (v : BitVec 16) : (s.setSl i v).dp = s.dp := rfl
@[simp] theorem State.setSl_mem (i : Nat) (v : BitVec 16) :
    (s.setSl i v).mem = (s.mem.store (slBase + 2 * i) (v.extractLsb' 0 8)).store (slBase + 2 * i + 1) (v.extractLsb' 8 8) := rfl
@[simp] theorem State.setSl_hazard (i : Nat) (v : BitVec 16) : (s.setSl i v).hazard = s.hazard := rfl
@[simp] theorem State.setSl_hostBus (i : Nat) (v : BitVec 16) : (s.setSl i v).hostBus = s.hostBus := rfl
@[simp] theorem State.setSl_host (i : Nat) (v : BitVec 16) : (s.setSl i v).host = s.host := rfl
@[simp] theorem State.setSl_delay (i : Nat) (v : BitVec 16) : (s.setSl i v).delay = s.delay := rfl
@[simp] theorem State.setSl_busData (i : Nat) (v : BitVec 16) : (s.setSl i v).busData = s.busData := rfl
@[simp] theorem State.setSl_freeCount (i : Nat) (v : BitVec 16) : (s.setSl i v).freeCount = s.freeCount := rfl

@[simp] theorem State.setStreamFlags_cmd (e h f m : Bool) : (s.setStreamFlags e h f m).cmd = s.cmd := rfl
@[simp] theorem State.setStreamFlags_pending (e h f m : Bool) : (s.setStreamFlags e h f m).pending = s.pending := rfl
@[simp] theorem State.setStreamFlags_status (e h f m : Bool) :
    (s.setStreamFlags e h f m).status = { s.status with eos := e, short := h, found := f, lockMiss := m } := rfl
@[simp] theorem State.setStreamFlags_cfg (e h f m : Bool) : (s.setStreamFlags e h f m).cfg = s.cfg := rfl
@[simp] theorem State.setStreamFlags_stream (e h f m : Bool) : (s.setStreamFlags e h f m).stream = s.stream := rfl
@[simp] theorem State.setStreamFlags_rs (e h f m : Bool) : (s.setStreamFlags e h f m).rs = s.rs := rfl
@[simp] theorem State.setStreamFlags_gfRes (e h f m : Bool) : (s.setStreamFlags e h f m).gfRes = s.gfRes := rfl
@[simp] theorem State.setStreamFlags_dp (e h f m : Bool) : (s.setStreamFlags e h f m).dp = s.dp := rfl
@[simp] theorem State.setStreamFlags_mem (e h f m : Bool) : (s.setStreamFlags e h f m).mem = s.mem := rfl
@[simp] theorem State.setStreamFlags_hazard (e h f m : Bool) : (s.setStreamFlags e h f m).hazard = s.hazard := rfl
@[simp] theorem State.setStreamFlags_hostBus (e h f m : Bool) : (s.setStreamFlags e h f m).hostBus = s.hostBus := rfl
@[simp] theorem State.setStreamFlags_host (e h f m : Bool) : (s.setStreamFlags e h f m).host = s.host := rfl
@[simp] theorem State.setStreamFlags_delay (e h f m : Bool) : (s.setStreamFlags e h f m).delay = s.delay := rfl
@[simp] theorem State.setStreamFlags_busData (e h f m : Bool) : (s.setStreamFlags e h f m).busData = s.busData := rfl
@[simp] theorem State.setStreamFlags_freeCount (e h f m : Bool) :
    (s.setStreamFlags e h f m).freeCount = s.freeCount := rfl

@[simp] theorem State.setFrameValid_cmd (v : Bool) : (s.setFrameValid v).cmd = s.cmd := rfl
@[simp] theorem State.setFrameValid_pending (v : Bool) : (s.setFrameValid v).pending = s.pending := rfl
@[simp] theorem State.setFrameValid_status (v : Bool) :
    (s.setFrameValid v).status = { s.status with frameValid := v } := rfl
@[simp] theorem State.setFrameValid_cfg (v : Bool) : (s.setFrameValid v).cfg = s.cfg := rfl
@[simp] theorem State.setFrameValid_stream (v : Bool) : (s.setFrameValid v).stream = s.stream := rfl
@[simp] theorem State.setFrameValid_rs (v : Bool) : (s.setFrameValid v).rs = s.rs := rfl
@[simp] theorem State.setFrameValid_gfRes (v : Bool) : (s.setFrameValid v).gfRes = s.gfRes := rfl
@[simp] theorem State.setFrameValid_dp (v : Bool) : (s.setFrameValid v).dp = s.dp := rfl
@[simp] theorem State.setFrameValid_mem (v : Bool) : (s.setFrameValid v).mem = s.mem := rfl
@[simp] theorem State.setFrameValid_hazard (v : Bool) : (s.setFrameValid v).hazard = s.hazard := rfl
@[simp] theorem State.setFrameValid_hostBus (v : Bool) : (s.setFrameValid v).hostBus = s.hostBus := rfl
@[simp] theorem State.setFrameValid_host (v : Bool) : (s.setFrameValid v).host = s.host := rfl
@[simp] theorem State.setFrameValid_delay (v : Bool) : (s.setFrameValid v).delay = s.delay := rfl
@[simp] theorem State.setFrameValid_busData (v : Bool) : (s.setFrameValid v).busData = s.busData := rfl
@[simp] theorem State.setFrameValid_freeCount (v : Bool) : (s.setFrameValid v).freeCount = s.freeCount := rfl

@[simp] theorem State.setScratch_cmd (x : Scratch) : (s.setScratch x).cmd = s.cmd := rfl
@[simp] theorem State.setScratch_pending (x : Scratch) : (s.setScratch x).pending = s.pending := rfl
@[simp] theorem State.setScratch_status (x : Scratch) : (s.setScratch x).status = s.status := rfl
@[simp] theorem State.setScratch_cfg (x : Scratch) : (s.setScratch x).cfg = s.cfg := rfl
@[simp] theorem State.setScratch_stream (x : Scratch) : (s.setScratch x).stream = s.stream := rfl
@[simp] theorem State.setScratch_rs (x : Scratch) : (s.setScratch x).rs = { s.rs with scratch := x } := rfl
@[simp] theorem State.setScratch_gfRes (x : Scratch) : (s.setScratch x).gfRes = s.gfRes := rfl
@[simp] theorem State.setScratch_dp (x : Scratch) : (s.setScratch x).dp = s.dp := rfl
@[simp] theorem State.setScratch_mem (x : Scratch) : (s.setScratch x).mem = s.mem := rfl
@[simp] theorem State.setScratch_hazard (x : Scratch) : (s.setScratch x).hazard = s.hazard := rfl
@[simp] theorem State.setScratch_hostBus (x : Scratch) : (s.setScratch x).hostBus = s.hostBus := rfl
@[simp] theorem State.setScratch_host (x : Scratch) : (s.setScratch x).host = s.host := rfl
@[simp] theorem State.setScratch_delay (x : Scratch) : (s.setScratch x).delay = s.delay := rfl
@[simp] theorem State.setScratch_busData (x : Scratch) : (s.setScratch x).busData = s.busData := rfl
@[simp] theorem State.setScratch_freeCount (x : Scratch) : (s.setScratch x).freeCount = s.freeCount := rfl

@[simp] theorem State.setStage_cmd (x : RsStage) : (s.setStage x).cmd = s.cmd := rfl
@[simp] theorem State.setStage_pending (x : RsStage) : (s.setStage x).pending = s.pending := rfl
@[simp] theorem State.setStage_status (x : RsStage) : (s.setStage x).status = s.status := rfl
@[simp] theorem State.setStage_cfg (x : RsStage) : (s.setStage x).cfg = s.cfg := rfl
@[simp] theorem State.setStage_stream (x : RsStage) : (s.setStage x).stream = s.stream := rfl
@[simp] theorem State.setStage_rs (x : RsStage) : (s.setStage x).rs = { s.rs with stage := x } := rfl
@[simp] theorem State.setStage_gfRes (x : RsStage) : (s.setStage x).gfRes = s.gfRes := rfl
@[simp] theorem State.setStage_dp (x : RsStage) : (s.setStage x).dp = s.dp := rfl
@[simp] theorem State.setStage_mem (x : RsStage) : (s.setStage x).mem = s.mem := rfl
@[simp] theorem State.setStage_hazard (x : RsStage) : (s.setStage x).hazard = s.hazard := rfl
@[simp] theorem State.setStage_hostBus (x : RsStage) : (s.setStage x).hostBus = s.hostBus := rfl
@[simp] theorem State.setStage_host (x : RsStage) : (s.setStage x).host = s.host := rfl
@[simp] theorem State.setStage_delay (x : RsStage) : (s.setStage x).delay = s.delay := rfl
@[simp] theorem State.setStage_busData (x : RsStage) : (s.setStage x).busData = s.busData := rfl
@[simp] theorem State.setStage_freeCount (x : RsStage) : (s.setStage x).freeCount = s.freeCount := rfl

@[simp] theorem State.setIl_cmd (k : Nat) (x : RsIl) : (s.setIl k x).cmd = s.cmd := rfl
@[simp] theorem State.setIl_pending (k : Nat) (x : RsIl) : (s.setIl k x).pending = s.pending := rfl
@[simp] theorem State.setIl_status (k : Nat) (x : RsIl) : (s.setIl k x).status = s.status := rfl
@[simp] theorem State.setIl_cfg (k : Nat) (x : RsIl) : (s.setIl k x).cfg = s.cfg := rfl
@[simp] theorem State.setIl_stream (k : Nat) (x : RsIl) : (s.setIl k x).stream = s.stream := rfl
@[simp] theorem State.setIl_rs (k : Nat) (x : RsIl) :
    (s.setIl k x).rs = { s.rs with ils := s.rs.ils.setIfInBounds k x } := rfl
@[simp] theorem State.setIl_gfRes (k : Nat) (x : RsIl) : (s.setIl k x).gfRes = s.gfRes := rfl
@[simp] theorem State.setIl_dp (k : Nat) (x : RsIl) : (s.setIl k x).dp = s.dp := rfl
@[simp] theorem State.setIl_mem (k : Nat) (x : RsIl) : (s.setIl k x).mem = s.mem := rfl
@[simp] theorem State.setIl_hazard (k : Nat) (x : RsIl) : (s.setIl k x).hazard = s.hazard := rfl
@[simp] theorem State.setIl_hostBus (k : Nat) (x : RsIl) : (s.setIl k x).hostBus = s.hostBus := rfl
@[simp] theorem State.setIl_host (k : Nat) (x : RsIl) : (s.setIl k x).host = s.host := rfl
@[simp] theorem State.setIl_delay (k : Nat) (x : RsIl) : (s.setIl k x).delay = s.delay := rfl
@[simp] theorem State.setIl_busData (k : Nat) (x : RsIl) : (s.setIl k x).busData = s.busData := rfl
@[simp] theorem State.setIl_freeCount (k : Nat) (x : RsIl) : (s.setIl k x).freeCount = s.freeCount := rfl

@[simp] theorem State.setRdptr_cmd (q : Nat) : (s.setRdptr q).cmd = s.cmd := rfl
@[simp] theorem State.setRdptr_pending (q : Nat) : (s.setRdptr q).pending = s.pending := rfl
@[simp] theorem State.setRdptr_status (q : Nat) : (s.setRdptr q).status = s.status := rfl
@[simp] theorem State.setRdptr_cfg (q : Nat) : (s.setRdptr q).cfg = s.cfg := rfl
@[simp] theorem State.setRdptr_stream (q : Nat) :
    (s.setRdptr q).stream = { s.stream with rdptr := BitVec.ofNat 17 q } := rfl
@[simp] theorem State.setRdptr_rs (q : Nat) : (s.setRdptr q).rs = s.rs := rfl
@[simp] theorem State.setRdptr_gfRes (q : Nat) : (s.setRdptr q).gfRes = s.gfRes := rfl
@[simp] theorem State.setRdptr_dp (q : Nat) : (s.setRdptr q).dp = s.dp := rfl
@[simp] theorem State.setRdptr_mem (q : Nat) : (s.setRdptr q).mem = s.mem := rfl
@[simp] theorem State.setRdptr_hazard (q : Nat) : (s.setRdptr q).hazard = s.hazard := rfl
@[simp] theorem State.setRdptr_hostBus (q : Nat) : (s.setRdptr q).hostBus = s.hostBus := rfl
@[simp] theorem State.setRdptr_host (q : Nat) : (s.setRdptr q).host = s.host := rfl
@[simp] theorem State.setRdptr_delay (q : Nat) : (s.setRdptr q).delay = s.delay := rfl
@[simp] theorem State.setRdptr_busData (q : Nat) : (s.setRdptr q).busData = s.busData := rfl
@[simp] theorem State.setRdptr_freeCount (q : Nat) : (s.setRdptr q).freeCount = s.freeCount := rfl

@[simp] theorem State.setSyncOff_cmd (q : Nat) : (s.setSyncOff q).cmd = s.cmd := rfl
@[simp] theorem State.setSyncOff_pending (q : Nat) : (s.setSyncOff q).pending = s.pending := rfl
@[simp] theorem State.setSyncOff_status (q : Nat) : (s.setSyncOff q).status = s.status := rfl
@[simp] theorem State.setSyncOff_cfg (q : Nat) : (s.setSyncOff q).cfg = s.cfg := rfl
@[simp] theorem State.setSyncOff_stream (q : Nat) :
    (s.setSyncOff q).stream = { s.stream with syncOff := BitVec.ofNat 17 q } := rfl
@[simp] theorem State.setSyncOff_rs (q : Nat) : (s.setSyncOff q).rs = s.rs := rfl
@[simp] theorem State.setSyncOff_gfRes (q : Nat) : (s.setSyncOff q).gfRes = s.gfRes := rfl
@[simp] theorem State.setSyncOff_dp (q : Nat) : (s.setSyncOff q).dp = s.dp := rfl
@[simp] theorem State.setSyncOff_mem (q : Nat) : (s.setSyncOff q).mem = s.mem := rfl
@[simp] theorem State.setSyncOff_hazard (q : Nat) : (s.setSyncOff q).hazard = s.hazard := rfl
@[simp] theorem State.setSyncOff_hostBus (q : Nat) : (s.setSyncOff q).hostBus = s.hostBus := rfl
@[simp] theorem State.setSyncOff_host (q : Nat) : (s.setSyncOff q).host = s.host := rfl
@[simp] theorem State.setSyncOff_delay (q : Nat) : (s.setSyncOff q).delay = s.delay := rfl
@[simp] theorem State.setSyncOff_busData (q : Nat) : (s.setSyncOff q).busData = s.busData := rfl
@[simp] theorem State.setSyncOff_freeCount (q : Nat) : (s.setSyncOff q).freeCount = s.freeCount := rfl

@[simp] theorem State.countSync_cmd : (s.countSync).cmd = s.cmd := rfl
@[simp] theorem State.countSync_pending : (s.countSync).pending = s.pending := rfl
@[simp] theorem State.countSync_status : (s.countSync).status = s.status := rfl
@[simp] theorem State.countSync_cfg : (s.countSync).cfg = s.cfg := rfl
@[simp] theorem State.countSync_stream :
    (s.countSync).stream = { s.stream with syncCount := s.stream.syncCount + 1 } := rfl
@[simp] theorem State.countSync_rs : (s.countSync).rs = s.rs := rfl
@[simp] theorem State.countSync_gfRes : (s.countSync).gfRes = s.gfRes := rfl
@[simp] theorem State.countSync_dp : (s.countSync).dp = s.dp := rfl
@[simp] theorem State.countSync_mem : (s.countSync).mem = s.mem := rfl
@[simp] theorem State.countSync_hazard : (s.countSync).hazard = s.hazard := rfl
@[simp] theorem State.countSync_hostBus : (s.countSync).hostBus = s.hostBus := rfl
@[simp] theorem State.countSync_host : (s.countSync).host = s.host := rfl
@[simp] theorem State.countSync_delay : (s.countSync).delay = s.delay := rfl
@[simp] theorem State.countSync_busData : (s.countSync).busData = s.busData := rfl
@[simp] theorem State.countSync_freeCount : (s.countSync).freeCount = s.freeCount := rfl

@[simp] theorem State.setDp_cmd (d : DpRegs) : (s.setDp d).cmd = s.cmd := rfl
@[simp] theorem State.setDp_pending (d : DpRegs) : (s.setDp d).pending = s.pending := rfl
@[simp] theorem State.setDp_status (d : DpRegs) : (s.setDp d).status = s.status := rfl
@[simp] theorem State.setDp_cfg (d : DpRegs) : (s.setDp d).cfg = s.cfg := rfl
@[simp] theorem State.setDp_stream (d : DpRegs) : (s.setDp d).stream = s.stream := rfl
@[simp] theorem State.setDp_rs (d : DpRegs) : (s.setDp d).rs = s.rs := rfl
@[simp] theorem State.setDp_gfRes (d : DpRegs) : (s.setDp d).gfRes = s.gfRes := rfl
@[simp] theorem State.setDp_dp (d : DpRegs) : (s.setDp d).dp = d := rfl
@[simp] theorem State.setDp_mem (d : DpRegs) : (s.setDp d).mem = s.mem := rfl
@[simp] theorem State.setDp_hazard (d : DpRegs) : (s.setDp d).hazard = s.hazard := rfl
@[simp] theorem State.setDp_hostBus (d : DpRegs) : (s.setDp d).hostBus = s.hostBus := rfl
@[simp] theorem State.setDp_host (d : DpRegs) : (s.setDp d).host = s.host := rfl
@[simp] theorem State.setDp_delay (d : DpRegs) : (s.setDp d).delay = s.delay := rfl
@[simp] theorem State.setDp_busData (d : DpRegs) : (s.setDp d).busData = s.busData := rfl
@[simp] theorem State.setDp_freeCount (d : DpRegs) : (s.setDp d).freeCount = s.freeCount := rfl

@[simp] theorem State.setCfg_cmd (c : CfgRegs) : (s.setCfg c).cmd = s.cmd := rfl
@[simp] theorem State.setCfg_pending (c : CfgRegs) : (s.setCfg c).pending = s.pending := rfl
@[simp] theorem State.setCfg_status (c : CfgRegs) : (s.setCfg c).status = s.status := rfl
@[simp] theorem State.setCfg_cfg (c : CfgRegs) : (s.setCfg c).cfg = c := rfl
@[simp] theorem State.setCfg_stream (c : CfgRegs) : (s.setCfg c).stream = s.stream := rfl
@[simp] theorem State.setCfg_rs (c : CfgRegs) : (s.setCfg c).rs = s.rs := rfl
@[simp] theorem State.setCfg_gfRes (c : CfgRegs) : (s.setCfg c).gfRes = s.gfRes := rfl
@[simp] theorem State.setCfg_dp (c : CfgRegs) : (s.setCfg c).dp = s.dp := rfl
@[simp] theorem State.setCfg_mem (c : CfgRegs) : (s.setCfg c).mem = s.mem := rfl
@[simp] theorem State.setCfg_hazard (c : CfgRegs) : (s.setCfg c).hazard = s.hazard := rfl
@[simp] theorem State.setCfg_hostBus (c : CfgRegs) : (s.setCfg c).hostBus = s.hostBus := rfl
@[simp] theorem State.setCfg_host (c : CfgRegs) : (s.setCfg c).host = s.host := rfl
@[simp] theorem State.setCfg_delay (c : CfgRegs) : (s.setCfg c).delay = s.delay := rfl
@[simp] theorem State.setCfg_busData (c : CfgRegs) : (s.setCfg c).busData = s.busData := rfl
@[simp] theorem State.setCfg_freeCount (c : CfgRegs) : (s.setCfg c).freeCount = s.freeCount := rfl

end Sys2Proof.Machine
end

