-- ==== Sys2Proof/Laws/Memory.lean ====
section
/-! SUPPORT. The RAM: a read after a write, the canonical form, and what the element accessors see. -/

namespace Sys2Proof.Machine

/-! ### Read after write -/

theorem Memory.lookup_store (m : Memory) (a : Nat) (v : Byte) (b : Nat) :
    (m.store a v).lookup b = if a = b then some v else m.lookup b := by
  induction m with
  | nil => simp only [Memory.store, Memory.lookup]
  | cons cell m ih =>
    obtain ⟨k, w⟩ := cell
    simp only [Memory.store]
    split
    · simp only [Memory.lookup]
    · split
      · next h => subst h; simp only [Memory.lookup]; split <;> rfl
      · next h₁ h₂ =>
        simp only [Memory.lookup, ih]
        by_cases hk : k = b
        · rw [if_pos hk, if_pos hk, if_neg fun h : a = b => h₂ (h.trans hk.symm)]
        · rw [if_neg hk, if_neg hk]

theorem State.byteAt_setByte (s : State) (a : Nat) (v : Byte) (b : Nat) :
    (s.setByte a v).byteAt b = if a = b then v else s.byteAt b := by
  simp only [State.byteAt, State.setByte, Memory.byteAt, Memory.lookup_store]
  split <;> rfl

@[simp] theorem State.byteAt_setByte_self (s : State) (a : Nat) (v : Byte) : (s.setByte a v).byteAt a = v := by
  simp [State.byteAt_setByte]

theorem State.byteAt_setByte_of_ne (s : State) {a b : Nat} (h : a ≠ b) (v : Byte) :
    (s.setByte a v).byteAt b = s.byteAt b := by
  simp [State.byteAt_setByte, h]

theorem State.byteAt_setFb (s : State) (i : Nat) (v : Byte) (b : Nat) :
    (s.setFb i v).byteAt b = if fbBase + i = b then v else s.byteAt b :=
  s.byteAt_setByte _ _ _

theorem State.fb_setFb (s : State) (i : Nat) (v : Byte) (j : Nat) :
    (s.setFb i v).fb j = if i = j then v else s.fb j := by
  simp [State.fb, State.byteAt_setFb]

theorem State.inByte_setFb (s : State) {i : Nat} (h : i < Config.fbSize) (v : Byte) (j : Nat) :
    (s.setFb i v).inByte j = s.inByte j := by
  simp only [State.inByte, State.byteAt_setFb, fbBase, inBase, Config.fbSize] at *
  exact if_neg (by omega)

theorem State.byteAt_setSl (s : State) (i : Nat) (v : BitVec 16) (b : Nat) :
    (s.setSl i v).byteAt b =
      if slBase + 2 * i = b then v.extractLsb' 0 8
      else if slBase + 2 * i + 1 = b then v.extractLsb' 8 8 else s.byteAt b := by
  simp only [State.setSl, State.byteAt_setByte, slBase]
  by_cases h : 0x20000 + 2 * i = b
  · rw [if_neg (show ¬ 0x20000 + 2 * i + 1 = b by omega), if_pos h, if_pos h]
  · rw [if_neg h, if_neg h]

theorem State.sl_setSl (s : State) (i : Nat) (v : BitVec 16) (j : Nat) :
    (s.setSl i v).sl j = if i = j then v else s.sl j := by
  simp only [State.sl, State.byteAt_setSl, slBase]
  by_cases h : i = j
  · subst h
    have h₁ : ¬ 0x20000 + 2 * i = 0x20000 + 2 * i + 1 := by omega
    simp only [h₁, if_true, if_false]
    apply BitVec.eq_of_getLsbD_eq
    intro k hk
    simp only [BitVec.getLsbD_append, BitVec.getLsbD_extractLsb']
    split
    · next h => simp [h]
    · next h => simp [show 8 + (k - 8) = k by omega, show k - 8 < 8 by omega]
  · have h₁ : ¬ 0x20000 + 2 * i = 0x20000 + 2 * j := by omega
    have h₂ : ¬ 0x20000 + 2 * i + 1 = 0x20000 + 2 * j := by omega
    have h₃ : ¬ 0x20000 + 2 * i = 0x20000 + 2 * j + 1 := by omega
    have h₄ : ¬ 0x20000 + 2 * i + 1 = 0x20000 + 2 * j + 1 := by omega
    simp only [h, h₁, h₂, h₃, h₄, if_false]

theorem State.fb_setSl (s : State) (i : Nat) (v : BitVec 16) {j : Nat} (h : j < Config.fbSize) :
    (s.setSl i v).fb j = s.fb j := by
  simp only [State.fb, State.byteAt_setSl, fbBase, slBase, Config.fbSize] at *
  rw [if_neg (by omega), if_neg (by omega)]

/-! ### The canonical form -/

theorem Memory.risingFrom_mono {lo lo' : Nat} (h : lo' ≤ lo) : ∀ {m : Memory}, m.risingFrom lo = true →
    m.risingFrom lo' = true
  | [], _ => rfl
  | (k, _) :: m, hm => by
    simp only [Memory.risingFrom, Bool.and_eq_true, decide_eq_true_eq] at hm ⊢
    exact ⟨h.trans hm.1, hm.2⟩

theorem Memory.risingFrom_store (a : Nat) (v : Byte) : ∀ (m : Memory) (lo : Nat), lo ≤ a →
    m.risingFrom lo = true → (m.store a v).risingFrom lo = true
  | [], lo, hlo, _ => by simp [Memory.store, Memory.risingFrom, hlo]
  | (k, w) :: m, lo, hlo, hm => by
    simp only [Memory.risingFrom, Bool.and_eq_true, decide_eq_true_eq] at hm
    simp only [Memory.store]
    split
    · next h => simp only [Memory.risingFrom, Bool.and_eq_true, decide_eq_true_eq]; exact ⟨hlo, h, hm.2⟩
    · split
      · next h => subst h; simp only [Memory.risingFrom, Bool.and_eq_true, decide_eq_true_eq]; exact hm
      · next h₁ h₂ =>
        simp only [Memory.risingFrom, Bool.and_eq_true, decide_eq_true_eq]
        exact ⟨hm.1, Memory.risingFrom_store a v m (k + 1) (by omega) hm.2⟩

theorem Memory.all_store (p : Nat → Bool) (a : Nat) (v : Byte) (ha : p a = true) : ∀ m : Memory,
    (m.all fun cell => p cell.1) = true → ((m.store a v).all fun cell => p cell.1) = true
  | [], _ => by simp [Memory.store, ha]
  | (k, w) :: m, hm => by
    simp only [List.all_cons, Bool.and_eq_true] at hm
    simp only [Memory.store]
    split
    · simp only [List.all_cons, Bool.and_eq_true]; exact ⟨ha, hm⟩
    · split
      · simp only [List.all_cons, Bool.and_eq_true]; exact ⟨ha, hm.2⟩
      · simp only [List.all_cons, Bool.and_eq_true]; exact ⟨hm.1, Memory.all_store p a v ha m hm.2⟩

/-- A write inside the RAM windows keeps the canonical form. -/
theorem Memory.wf_store {m : Memory} {a : Nat} (ha : ramAddr a = true) (v : Byte) (hm : m.wf = true) :
    (m.store a v).wf = true := by
  simp only [Memory.wf, Bool.and_eq_true] at hm ⊢
  exact ⟨Memory.risingFrom_store a v m 0 (Nat.zero_le a) hm.1, Memory.all_store ramAddr a v ha m hm.2⟩

theorem ramAddr_fb {i : Nat} (h : i < Config.fbSize) : ramAddr (fbBase + i) = true := by
  simp only [ramAddr, inFbWindow, fbBase, Config.fbSize] at *
  simp; omega

theorem ramAddr_sl {i : Nat} (h : i < Config.slCells) :
    ramAddr (slBase + 2 * i) = true ∧ ramAddr (slBase + 2 * i + 1) = true := by
  simp only [ramAddr, inSlWindow, slBase, Config.slCells] at *
  simp; omega

/-- The canonical form determines the list: two canonical memories with the same written bytes are equal. -/
theorem Memory.lookup_of_risingFrom : ∀ {m : Memory} {lo a : Nat}, m.risingFrom lo = true → a < lo →
    m.lookup a = none
  | [], _, _, _, _ => rfl
  | (k, _) :: m, lo, a, hm, ha => by
    simp only [Memory.risingFrom, Bool.and_eq_true, decide_eq_true_eq] at hm
    simp only [Memory.lookup, if_neg (show ¬ k = a by omega)]
    exact Memory.lookup_of_risingFrom hm.2 (by omega)

theorem Memory.eq_of_lookup_eq : ∀ {m n : Memory} {lo : Nat}, m.risingFrom lo = true → n.risingFrom lo = true →
    (∀ a, m.lookup a = n.lookup a) → m = n
  | [], [], _, _, _, _ => rfl
  | [], (k, _) :: _, _, _, _, h => by simpa [Memory.lookup] using h k
  | (k, _) :: _, [], _, _, _, h => by simpa [Memory.lookup] using h k
  | (k, v) :: m, (l, w) :: n, lo, hm, hn, h => by
    simp only [Memory.risingFrom, Bool.and_eq_true, decide_eq_true_eq] at hm hn
    have hkl : k = l := by
      rcases Nat.lt_trichotomy k l with hlt | heq | hgt
      · have := h k
        simp [Memory.lookup, Nat.ne_of_gt hlt, Memory.lookup_of_risingFrom hn.2 (show k < l + 1 by omega)] at this
      · exact heq
      · have := h l
        simp [Memory.lookup, Nat.ne_of_gt hgt, Memory.lookup_of_risingFrom hm.2 (show l < k + 1 by omega)] at this
    subst hkl
    have hv : v = w := by simpa [Memory.lookup] using h k
    subst hv
    have : m = n := Memory.eq_of_lookup_eq hm.2 hn.2 fun a => by
      by_cases ha : k = a
      · subst ha
        rw [Memory.lookup_of_risingFrom hm.2 (Nat.lt_succ_self k), Memory.lookup_of_risingFrom hn.2 (Nat.lt_succ_self k)]
      · simpa [Memory.lookup, ha] using h a
    rw [this]

end Sys2Proof.Machine
end

