-- ==== Sys2Proof/Laws/Ops.lean ====
section
/-! SUPPORT. What the shared operations can do: running a command (R501), and loops that only write the RAM. -/

namespace Sys2Proof.Machine

/-! ### Words -/

/-- A register word as a number is the sum of its fields at their bit places (R11): `simp only` with this lemma turns a
concatenation into arithmetic. -/
theorem toNat_append_add {n m : Nat} (x : BitVec n) (y : BitVec m) : (x ++ y).toNat = x.toNat * 2 ^ m + y.toNat := by
  rw [BitVec.toNat_append, Nat.shiftLeft_eq, Nat.mul_comm, ← Nat.two_pow_add_eq_or_of_lt y.isLt]

/-! ### Running a command -/

@[simp] theorem firstFailure_nil : firstFailure [] = none := rfl

@[simp] theorem firstFailure_cons (fails : Bool) (code : ErrCode) (checks : List (Bool × ErrCode)) :
    firstFailure ((fails, code) :: checks) = if fails then some code else firstFailure checks := rfl

/-- Every check passes. -/
theorem firstFailure_cons_eq_none (fails : Bool) (code : ErrCode) (checks : List (Bool × ErrCode)) :
    firstFailure ((fails, code) :: checks) = none ↔ fails = false ∧ firstFailure checks = none := by
  cases fails <;> simp

theorem runCommand_passed {checks : List (Bool × ErrCode)} {body : State → State} {s : State}
    (h : firstFailure checks = none) : runCommand checks body s = .next ((body s).complete .ok) := by
  simp [runCommand, h]

theorem runCommand_failed {checks : List (Bool × ErrCode)} {body : State → State} {s : State} {code : ErrCode}
    (h : firstFailure checks = some code) : runCommand checks body s = .next (s.complete code) := by
  simp [runCommand, h]

/-- Everything a command can do: a check fails and only the completion is written, or the body runs (R501). -/
theorem runCommand_cases {checks : List (Bool × ErrCode)} {body : State → State} {s t : State}
    (h : runCommand checks body s = .next t) :
    (∃ code, firstFailure checks = some code ∧ t = s.complete code) ∨
      (firstFailure checks = none ∧ t = (body s).complete .ok) := by
  cases hc : firstFailure checks with
  | none => rw [runCommand_passed hc] at h; exact .inr ⟨rfl, by simpa using h.symm⟩
  | some code => rw [runCommand_failed hc] at h; exact .inl ⟨code, rfl, by simpa using h.symm⟩

/-- A command always answers a next state (R500). -/
theorem runCommand_next (checks : List (Bool × ErrCode)) (body : State → State) (s : State) :
    ∃ t, runCommand checks body s = .next t := by
  cases hc : firstFailure checks with
  | none => exact ⟨_, runCommand_passed hc⟩
  | some code => exact ⟨_, runCommand_failed hc⟩

/-! ### Completion -/

@[simp] theorem Status.complete_busy (code : ErrCode) (st : Status) : (st.complete code).busy = false := rfl
@[simp] theorem Status.complete_done (code : ErrCode) (st : Status) : (st.complete code).done = true := rfl
@[simp] theorem Status.complete_errcode (code : ErrCode) (st : Status) : (st.complete code).errcode = code := rfl
@[simp] theorem Status.complete_err (code : ErrCode) (st : Status) :
    (st.complete code).err = (st.err || decide (code ≠ .ok)) := rfl
@[simp] theorem Status.complete_eos (code : ErrCode) (st : Status) : (st.complete code).eos = st.eos := rfl
@[simp] theorem Status.complete_short (code : ErrCode) (st : Status) : (st.complete code).short = st.short := rfl
@[simp] theorem Status.complete_found (code : ErrCode) (st : Status) : (st.complete code).found = st.found := rfl
@[simp] theorem Status.complete_frameValid (code : ErrCode) (st : Status) :
    (st.complete code).frameValid = st.frameValid := rfl
@[simp] theorem Status.complete_lockMiss (code : ErrCode) (st : Status) :
    (st.complete code).lockMiss = st.lockMiss := rfl
@[simp] theorem Status.complete_log0 (code : ErrCode) (st : Status) : (st.complete code).log0 = st.log0 := rfl

@[simp] theorem State.byteAt_complete (s : State) (code : ErrCode) (a : Nat) :
    (s.complete code).byteAt a = s.byteAt a := rfl
@[simp] theorem State.fb_complete (s : State) (code : ErrCode) (i : Nat) : (s.complete code).fb i = s.fb i := rfl
@[simp] theorem State.inByte_complete (s : State) (code : ErrCode) (i : Nat) :
    (s.complete code).inByte i = s.inByte i := rfl
@[simp] theorem State.sl_complete (s : State) (code : ErrCode) (i : Nat) : (s.complete code).sl i = s.sl i := rfl

/-! ### Updates that leave the RAM alone -/

/-- RAM bytes depend on the memory alone. -/
theorem State.byteAt_congr {s t : State} (h : s.mem = t.mem) (a : Nat) : s.byteAt a = t.byteAt a := by
  simp [State.byteAt, h]

theorem State.fb_congr {s t : State} (h : s.mem = t.mem) (i : Nat) : s.fb i = t.fb i := State.byteAt_congr h _

theorem State.inByte_congr {s t : State} (h : s.mem = t.mem) (i : Nat) : s.inByte i = t.inByte i :=
  State.byteAt_congr h _

/-! ### Loops that only write the RAM -/

/-- `t` differs from `s` in the RAM at most. -/
def State.MemOnly (s t : State) : Prop := t = { s with mem := t.mem }

theorem State.MemOnly.rfl (s : State) : s.MemOnly s := Eq.refl s

theorem State.MemOnly.trans {s t u : State} (h : s.MemOnly t) (h' : t.MemOnly u) : s.MemOnly u := by
  unfold State.MemOnly at *
  rw [h] at h'
  exact h'

theorem State.memOnly_setByte (s : State) (a : Nat) (v : Byte) : s.MemOnly (s.setByte a v) := Eq.refl _

theorem State.memOnly_setFb (s : State) (i : Nat) (v : Byte) : s.MemOnly (s.setFb i v) := Eq.refl _

theorem State.memOnly_setSl (s : State) (i : Nat) (v : BitVec 16) : s.MemOnly (s.setSl i v) := Eq.refl _

theorem foldl_memOnly {f : State → Nat → State} (h : ∀ (s : State) (k : Nat), s.MemOnly (f s k)) :
    ∀ (l : List Nat) (s : State), s.MemOnly (l.foldl f s)
  | [], s => .rfl s
  | k :: l, s => (h s k).trans (foldl_memOnly h l (f s k))

theorem State.MemOnly.cfg {s t : State} (h : s.MemOnly t) : t.cfg = s.cfg := by rw [h]
theorem State.MemOnly.status {s t : State} (h : s.MemOnly t) : t.status = s.status := by rw [h]
theorem State.MemOnly.stream {s t : State} (h : s.MemOnly t) : t.stream = s.stream := by rw [h]
theorem State.MemOnly.rs {s t : State} (h : s.MemOnly t) : t.rs = s.rs := by rw [h]
theorem State.MemOnly.dp {s t : State} (h : s.MemOnly t) : t.dp = s.dp := by rw [h]

/-- A property that every turn of a loop keeps holds after it. -/
theorem foldl_keeps {α β : Type} {f : β → α → β} {P : β → Prop} : ∀ (l : List α) (b : β),
    (∀ b, ∀ k ∈ l, P b → P (f b k)) → P b → P (l.foldl f b)
  | [], _, _, h => h
  | k :: l, b, hf, h =>
    foldl_keeps l (f b k) (fun b j hj => hf b j (List.mem_cons_of_mem k hj)) (hf b k List.mem_cons_self h)

/-! ### Copying into `FB` -/

theorem State.memOnly_fillFb (s : State) (base n : Nat) (f : Nat → Byte) : s.MemOnly (s.fillFb base n f) :=
  foldl_memOnly (fun s _ => s.memOnly_setFb _ _) _ s

theorem State.fillFb_succ (s : State) (base n : Nat) (f : Nat → Byte) :
    s.fillFb base (n + 1) f = (s.fillFb base n f).setFb (base + n) (f n) := by
  simp [State.fillFb, List.range_succ]

/-- What the RAM holds after `FB[base + j] <- f j` for `j < n`. -/
theorem State.byteAt_fillFb (s : State) (base n : Nat) (f : Nat → Byte) (a : Nat) :
    (s.fillFb base n f).byteAt a =
      if fbBase + base ≤ a ∧ a < fbBase + base + n then f (a - (fbBase + base)) else s.byteAt a := by
  induction n with
  | zero => rw [if_neg (by omega)]; rfl
  | succ n ih =>
    rw [State.fillFb_succ, State.byteAt_setFb, ih]
    by_cases h : fbBase + (base + n) = a
    · rw [if_pos h, if_pos (by omega)]; congr 1; omega
    · rw [if_neg h]
      by_cases h' : fbBase + base ≤ a ∧ a < fbBase + base + n
      · rw [if_pos h', if_pos (by omega)]
      · rw [if_neg h', if_neg (by omega)]

theorem State.fb_fillFb (s : State) (base n : Nat) (f : Nat → Byte) (i : Nat) :
    (s.fillFb base n f).fb i = if base ≤ i ∧ i < base + n then f (i - base) else s.fb i := by
  simp only [State.fb, State.byteAt_fillFb]
  by_cases h : base ≤ i ∧ i < base + n
  · rw [if_pos h, if_pos (by omega)]; congr 1; omega
  · rw [if_neg h, if_neg (by omega)]

/-- A copy inside the buffer keeps the canonical form of the RAM. -/
theorem State.wf_fillFb {s : State} {base n : Nat} (h : base + n ≤ Config.fbSize) (f : Nat → Byte)
    (hm : s.mem.wf = true) : (s.fillFb base n f).mem.wf = true := by
  refine foldl_keeps (P := fun t : State => t.mem.wf = true) _ s (fun t k hk ht => ?_) hm
  have hk : k < n := List.mem_range.mp hk
  exact Memory.wf_store (ramAddr_fb (by omega)) _ ht

end Sys2Proof.Machine
end

