-- ==== Sys2Proof/Laws/Gf.lean ====
section
/-! SUPPORT. The small facts of the GF tables that later proofs cite instead of the tables: the log and antilog
tables invert each other (R208), and the products with zero and through logarithms (R205, R206). -/

namespace Sys2Proof.Machine

/-! ### The tables -/

theorem alog_mod (basis : Bool) (e : Nat) : alog basis (e % 255) = alog basis e := by
  simp [alog]

theorem alog_congr (basis : Bool) {e e' : Nat} (h : e % 255 = e' % 255) : alog basis e = alog basis e' := by
  rw [← alog_mod basis e, h, alog_mod]

theorem glog_lt (basis : Bool) (x : Byte) : glog basis x < 255 := by
  have h : ∀ b : Bool, ∀ i : Fin 256, glog b (BitVec.ofFin i) < 255 := by decide +kernel
  exact h basis x.toFin

theorem alog_glog (basis : Bool) {x : Byte} (hx : x ≠ 0) : alog basis (glog basis x) = x := by
  have h : ∀ b : Bool, ∀ i : Fin 256, i ≠ 0 → alog b (glog b (BitVec.ofFin i)) = BitVec.ofFin i := by
    decide +kernel
  exact h basis x.toFin fun h0 => hx (by simpa [← BitVec.toNat_inj] using congrArg Fin.val h0)

theorem glog_alog (basis : Bool) {i : Nat} (hi : i < 255) : glog basis (alog basis i) = i := by
  have h : ∀ b : Bool, ∀ i : Fin 255, glog b (alog b i) = i := by decide +kernel
  exact h basis ⟨i, hi⟩

theorem glog_alog_mod (basis : Bool) (e : Nat) : glog basis (alog basis e) = e % 255 := by
  rw [← alog_mod, glog_alog basis (Nat.mod_lt _ (by decide))]

theorem alog_ne_zero (basis : Bool) (e : Nat) : alog basis e ≠ 0 := by
  have h : ∀ b : Bool, ∀ i : Fin 255, alog b i ≠ 0 := by decide +kernel
  rw [← alog_mod]
  exact h basis ⟨e % 255, Nat.mod_lt _ (by decide)⟩

/-! ### Products and quotients -/

@[simp] theorem gmul_zero_left (basis : Bool) (c : Byte) : gmul basis 0 c = 0 := by simp [gmul]

@[simp] theorem gmul_zero_right (basis : Bool) (a : Byte) : gmul basis a 0 = 0 := by simp [gmul]

/-- The product of two antilogs (R205). -/
theorem gmul_alog (basis : Bool) (e e' : Nat) :
    gmul basis (alog basis e) (alog basis e') = alog basis (e + e') := by
  rw [gmul, if_neg (not_or.mpr ⟨alog_ne_zero basis e, alog_ne_zero basis e'⟩), glog_alog_mod, glog_alog_mod]
  exact alog_congr basis (by omega)

theorem gdiv_alog (basis : Bool) (e e' : Nat) (h : e' < 255) :
    gdiv basis (alog basis e) (alog basis e') = alog basis (e + 255 - e') := by
  rw [gdiv, if_neg (alog_ne_zero basis e), glog_alog_mod, glog_alog_mod]
  exact alog_congr basis (by omega)

theorem gmul_ne_zero (basis : Bool) {a c : Byte} (ha : a ≠ 0) (hc : c ≠ 0) : gmul basis a c ≠ 0 := by
  rw [gmul, if_neg (not_or.mpr ⟨ha, hc⟩)]
  exact alog_ne_zero basis _

/-- Every non-zero byte is an antilog. -/
theorem exists_alog (basis : Bool) {x : Byte} (hx : x ≠ 0) : ∃ i < 255, x = alog basis i :=
  ⟨glog basis x, glog_lt basis x, (alog_glog basis hx).symm⟩

/-! ### Sums -/

theorem xorOver_nil (f : Nat → Byte) : xorOver [] f = 0 := rfl

theorem foldl_xor_acc (f : Nat → Byte) : ∀ (l : List Nat) (x : Byte),
    l.foldl (fun acc i => acc ^^^ f i) x = x ^^^ xorOver l f
  | [], x => by simp [xorOver]
  | i :: l, x => by
    simp only [xorOver, List.foldl_cons]
    rw [foldl_xor_acc f l (x ^^^ f i), foldl_xor_acc f l (0 ^^^ f i)]
    simp [BitVec.xor_assoc]

theorem xorOver_cons (i : Nat) (l : List Nat) (f : Nat → Byte) : xorOver (i :: l) f = f i ^^^ xorOver l f := by
  rw [xorOver, List.foldl_cons, foldl_xor_acc]
  simp

theorem xorOver_append (l l' : List Nat) (f : Nat → Byte) :
    xorOver (l ++ l') f = xorOver l f ^^^ xorOver l' f := by
  rw [xorOver, List.foldl_append, foldl_xor_acc]
  rfl

theorem xorOver_range_succ (n : Nat) (f : Nat → Byte) :
    xorOver (List.range (n + 1)) f = xorOver (List.range n) f ^^^ f n := by
  rw [List.range_succ, xorOver_append, xorOver_cons, xorOver_nil]
  simp

end Sys2Proof.Machine
end

