-- ==== Sys2Proof/Laws/Operands.lean ====
section
/-! SUPPORT. What the legality predicates give (R69): the bounds every frame command relies on. -/

namespace Sys2Proof.Machine

namespace CfgRegs

variable {c : CfgRegs}

/-- What `CFG_RS_OK` says, in natural numbers (R69). -/
theorem rsOk_iff : c.rsOk = true ↔
    1 ≤ c.T ∧ c.T ≤ 16 ∧ 1 ≤ c.I ∧ c.I ≤ 8 ∧ 2 * c.T + c.VF ≤ 254 ∧ Nat.gcd c.POA 255 = 1 := by
  have hk : 1 ≤ c.KDAT ↔ 2 * c.T + c.VF ≤ 254 := by
    unfold KDAT
    omega
  simp only [rsOk, Config.tMax, Config.iMax, Bool.and_eq_true, decide_eq_true_eq, hk]
  tauto

theorem syncOk_iff : c.syncOk = true ↔ 1 ≤ c.S ∧ c.S ≤ 8 := by
  simp only [syncOk, Config.slenMax, Bool.and_eq_true, decide_eq_true_eq]

theorem frameOk_iff : c.frameOk = true ↔ c.rsOk = true ∧ c.syncOk = true := by
  simp only [frameOk, Bool.and_eq_true]

/-- What `CFG_DP_OK` adds to `CFG_FRAME_OK`, in natural numbers (R69). -/
theorem dpOk_iff : c.dpOk = true ↔
    c.frameOk = true ∧ 1 ≤ c.ZSeff ∧ c.ZS ≤ 2047 ∧ c.ZBASE + c.ZS ≤ c.FLEN ∧ 1 ≤ c.WC ∧ c.WC ≤ 16384 := by
  have hz : c.ZS = c.ZSeff.toNat := rfl
  simp only [dpOk, Config.slCells, Bool.and_eq_true, decide_eq_true_eq]
  constructor
  · rintro ⟨⟨⟨⟨⟨h₁, h₂⟩, h₃⟩, h₄⟩, h₅⟩, h₆⟩
    exact ⟨h₁, h₂, by omega, by omega, h₅, h₆⟩
  · rintro ⟨h₁, h₂, h₃, h₄, h₅, h₆⟩
    exact ⟨⟨⟨⟨⟨h₁, h₂⟩, by omega⟩, by omega⟩, h₅⟩, h₆⟩

theorem frameOk_of_dpOk (h : c.dpOk = true) : c.frameOk = true := (dpOk_iff.mp h).1

theorem VF_le : c.VF ≤ 255 := by
  have := c.rsCfg.vf.isLt
  simp only [VF]
  omega

theorem NSYM_le : c.NSYM ≤ 255 := by simp [NSYM]

/-- Under `CFG_FRAME_OK` the frame fits the buffer (R69). -/
theorem FLEN_le (h : c.frameOk = true) : c.FLEN ≤ Config.fbSize := by
  obtain ⟨hr, hs⟩ := frameOk_iff.mp h
  obtain ⟨-, -, -, hI, -⟩ := rsOk_iff.mp hr
  have hS := (syncOk_iff.mp hs).2
  have : c.NSYM * c.I ≤ 255 * 8 := Nat.mul_le_mul NSYM_le hI
  simp only [FLEN, Config.fbSize]
  omega

theorem S_le_FLEN : c.S ≤ c.FLEN := by simp [FLEN]

theorem FLEN_sub_S : c.FLEN - c.S = c.NSYM * c.I := by simp [FLEN]

/-- Every symbol of a codeword lies between the sync bytes and the end of the frame (R81, R230). -/
theorem symbol_lt_FLEN {il p : Nat} (hil : il < c.I) (hp : p < c.NSYM) : c.S + p * c.I + il < c.FLEN := by
  have : (p + 1) * c.I ≤ c.NSYM * c.I := Nat.mul_le_mul_right _ hp
  simp only [FLEN]
  rw [Nat.succ_mul] at this
  omega

end CfgRegs

end Sys2Proof.Machine
end

