-- ==== Sys2Proof/Laws/Rs.lean ====
section
/-! SUPPORT. What the RS bodies can do: which fields each writes, where RS_CORR stores, and the bounds that make
every value fit its field. -/

namespace Sys2Proof.Machine

/-! ### Scratch arrays -/

@[simp] theorem scratchOf_getD (n : Nat) (f : Nat → Byte) (i : Nat) :
    (scratchOf n f).getD i 0 = if i < n then f i else 0 := by
  simp only [scratchOf, Vector.getD]
  split
  · next h => simp [h]
  · next h => simp [h]

/-! ### Stages other than RS_CORR write RS registers only -/

/-- `t` differs from `s` in the RS registers and the RAM at most. -/
def State.RsMemOnly (s t : State) : Prop := t = { s with rs := t.rs, mem := t.mem }

theorem State.RsMemOnly.rfl (s : State) : s.RsMemOnly s := Eq.refl s

theorem State.RsMemOnly.trans {s t u : State} (h : s.RsMemOnly t) (h' : t.RsMemOnly u) : s.RsMemOnly u := by
  unfold State.RsMemOnly at *
  rw [h] at h'
  exact h'

theorem State.MemOnly.rsMemOnly {s t : State} (h : s.MemOnly t) : s.RsMemOnly t := by
  unfold State.MemOnly State.RsMemOnly at *
  rw [h]

theorem State.RsMemOnly.cfg {s t : State} (h : s.RsMemOnly t) : t.cfg = s.cfg := by rw [h]
theorem State.RsMemOnly.stream {s t : State} (h : s.RsMemOnly t) : t.stream = s.stream := by rw [h]
theorem State.RsMemOnly.status {s t : State} (h : s.RsMemOnly t) : t.status = s.status := by rw [h]
theorem State.RsMemOnly.dp {s t : State} (h : s.RsMemOnly t) : t.dp = s.dp := by rw [h]

theorem State.rsMemOnly_setScratch (s : State) (x : Scratch) : s.RsMemOnly (s.setScratch x) := Eq.refl _

theorem State.rsMemOnly_setStage (s : State) (x : RsStage) : s.RsMemOnly (s.setStage x) := Eq.refl _

theorem State.rsMemOnly_setIl (s : State) (k : Nat) (x : RsIl) : s.RsMemOnly (s.setIl k x) := Eq.refl _

/-- What every stage but RS_CORR does: it writes the scratch and `RS_STAGE`. -/
theorem State.setStage_setScratch_frame (s : State) (x : Scratch) (y : RsStage) :
    s.RsMemOnly ((s.setScratch x).setStage y) ∧ ((s.setScratch x).setStage y).mem = s.mem :=
  ⟨(s.rsMemOnly_setScratch x).trans (State.rsMemOnly_setStage _ y), Eq.refl _⟩

theorem rsSynBody_frame (il : Nat) (s : State) : s.RsMemOnly (rsSynBody il s) :=
  (s.setStage_setScratch_frame _ _).1
theorem rsBmBody_frame (s : State) : s.RsMemOnly (rsBmBody s) := (s.setStage_setScratch_frame _ _).1
theorem rsChienBody_frame (s : State) : s.RsMemOnly (rsChienBody s) := (s.setStage_setScratch_frame _ _).1
theorem rsForneyBody_frame (s : State) : s.RsMemOnly (rsForneyBody s) := (s.setStage_setScratch_frame _ _).1

@[simp] theorem rsSynBody_mem (il : Nat) (s : State) : (rsSynBody il s).mem = s.mem :=
  (s.setStage_setScratch_frame _ _).2
@[simp] theorem rsBmBody_mem (s : State) : (rsBmBody s).mem = s.mem := (s.setStage_setScratch_frame _ _).2
@[simp] theorem rsChienBody_mem (s : State) : (rsChienBody s).mem = s.mem := (s.setStage_setScratch_frame _ _).2
@[simp] theorem rsForneyBody_mem (s : State) : (rsForneyBody s).mem = s.mem := (s.setStage_setScratch_frame _ _).2

@[simp] theorem rsSynBody_cfg (il : Nat) (s : State) : (rsSynBody il s).cfg = s.cfg := (rsSynBody_frame il s).cfg
@[simp] theorem rsBmBody_cfg (s : State) : (rsBmBody s).cfg = s.cfg := (rsBmBody_frame s).cfg
@[simp] theorem rsChienBody_cfg (s : State) : (rsChienBody s).cfg = s.cfg := (rsChienBody_frame s).cfg
@[simp] theorem rsForneyBody_cfg (s : State) : (rsForneyBody s).cfg = s.cfg := (rsForneyBody_frame s).cfg

/-! ### First causes (R232) -/

/-- What `flag(c)` can do: nothing when a cause is already recorded, else record this one (R232). -/
theorem RsStage.flagIf_uncorr (raised : Bool) (c : BitVec 2) (st : RsStage) :
    (st.flagIf raised c).uncorr = (st.uncorr || raised) := by
  cases raised <;> cases h : st.uncorr <;> simp [RsStage.flagIf, RsStage.flag, h]

theorem RsStage.flagIf_cause (raised : Bool) (c : BitVec 2) (st : RsStage) :
    (st.flagIf raised c).cause = if raised = true ∧ st.uncorr = false then c else st.cause := by
  cases raised <;> cases h : st.uncorr <;> simp [RsStage.flagIf, RsStage.flag, h]

@[simp] theorem RsStage.flagIf_l (raised : Bool) (c : BitVec 2) (st : RsStage) : (st.flagIf raised c).l = st.l := by
  cases raised <;> cases h : st.uncorr <;> simp [RsStage.flagIf, RsStage.flag, h]

@[simp] theorem RsStage.flagIf_nloc (raised : Bool) (c : BitVec 2) (st : RsStage) :
    (st.flagIf raised c).nloc = st.nloc := by
  cases raised <;> cases h : st.uncorr <;> simp [RsStage.flagIf, RsStage.flag, h]

@[simp] theorem RsStage.flagIf_synNz (raised : Bool) (c : BitVec 2) (st : RsStage) :
    (st.flagIf raised c).synNz = st.synNz := by
  cases raised <;> cases h : st.uncorr <;> simp [RsStage.flagIf, RsStage.flag, h]

@[simp] theorem RsStage.flagIf_il (raised : Bool) (c : BitVec 2) (st : RsStage) :
    (st.flagIf raised c).il = st.il := by
  cases raised <;> cases h : st.uncorr <;> simp [RsStage.flagIf, RsStage.flag, h]

/-! ### Berlekamp-Massey bounds (R242) -/

/-- Each turn leaves `L` where it is or raises it to `k - L` (R242). -/
theorem bmStep_l_le (basis : Bool) (syn : Nat → Byte) (b : BmState) (k : Nat) (h : b.l ≤ k) :
    (bmStep basis syn b k).l ≤ k := by
  simp only [bmStep]
  split
  · exact h
  · split
    · exact Nat.sub_le _ _
    · exact h

/-- `L <= 2T` (R242). -/
theorem bmRun_l_le (basis : Bool) (t : Nat) (syn : Nat → Byte) : (bmRun basis t syn).l ≤ 2 * t := by
  have h : ∀ n, ((List.range n).foldl (fun b k => bmStep basis syn b (k + 1)) (bmInit basis t)).l ≤ n := by
    intro n
    induction n with
    | zero => simp [bmInit]
    | succ n ih =>
      rw [List.range_succ, List.foldl_append]
      exact bmStep_l_le basis syn _ _ (ih.trans (Nat.le_succ n))
  exact h (2 * t)

theorem roots_length_le (s : State) : s.roots.length ≤ 255 := by
  simp only [State.roots]
  refine (List.length_filter_le _ _).trans ?_
  simp [CfgRegs.NSYM]

/-! ### RS_CORR (R248) -/

theorem corrOne_memOnly (il : Nat) (s : State) (k : Nat) : s.MemOnly (corrOne il s k) := by
  simp only [corrOne]
  split
  · exact s.memOnly_setFb _ _
  · exact .rfl s

theorem rsCorrBody_memOnly (il : Nat) (s : State) : s.MemOnly (rsCorrBody il s) := by
  simp only [rsCorrBody]
  split
  · exact .rfl s
  · exact foldl_memOnly (corrOne_memOnly il) _ s

@[simp] theorem rsCorrBody_cfg (il : Nat) (s : State) : (rsCorrBody il s).cfg = s.cfg := (rsCorrBody_memOnly il s).cfg
@[simp] theorem rsCorrBody_rs (il : Nat) (s : State) : (rsCorrBody il s).rs = s.rs := (rsCorrBody_memOnly il s).rs

theorem State.loc_congr {s t : State} (h : s.rs = t.rs) (k : Nat) : s.loc k = t.loc k := by simp [State.loc, h]
theorem State.mag_congr {s t : State} (h : s.rs = t.rs) (k : Nat) : s.mag k = t.mag k := by simp [State.mag, h]

/-- Where one correction stores: the bus address of the symbol at the located position, if it is a position (R248). -/
def corrAddr (s : State) (il k : Nat) : Option Nat :=
  if (s.loc k).toNat + s.cfg.VF ≤ 254 then
    some (fbBase + s.symbolIndex il (254 - (s.loc k).toNat - s.cfg.VF))
  else none

theorem byteAt_corrOne (il : Nat) (s : State) (k a : Nat) :
    (corrOne il s k).byteAt a = if corrAddr s il k = some a then s.byteAt a ^^^ s.mag k else s.byteAt a := by
  simp only [corrOne, corrAddr]
  split
  · rw [State.byteAt_setFb]
    by_cases h : fbBase + s.symbolIndex il (254 - (s.loc k).toNat - s.cfg.VF) = a
    · rw [if_pos h, if_pos (by rw [h]), ← h]; rfl
    · rw [if_neg h, if_neg (by simpa using h)]
  · simp

/-- RS_CORR on a correctable codeword: every byte takes the exclusive-or of the magnitudes located at it (R248). -/
theorem byteAt_corrFold (il : Nat) (s : State) (a : Nat) : ∀ l : List Nat,
    (l.foldl (corrOne il) s).byteAt a =
      s.byteAt a ^^^ xorOver (l.filter fun k => decide (corrAddr s il k = some a)) s.mag := by
  intro l
  induction l generalizing s with
  | nil => simp [xorOver]
  | cons k l ih =>
    have hm := corrOne_memOnly il s k
    have hrs : (corrOne il s k).rs = s.rs := hm.rs
    have haddr : ∀ j, corrAddr (corrOne il s k) il j = corrAddr s il j := fun j => by
      simp [corrAddr, State.loc_congr hrs, State.symbolIndex, hm.cfg]
    have hmag : (corrOne il s k).mag = s.mag := funext fun j => State.mag_congr hrs j
    rw [List.foldl_cons, ih, byteAt_corrOne]
    simp only [haddr, hmag, List.filter_cons]
    by_cases h : corrAddr s il k = some a
    · simp [h, xorOver_cons, BitVec.xor_assoc]
    · simp [h]

theorem byteAt_rsCorrBody (il : Nat) (s : State) (a : Nat) (h : s.rs.stage.uncorr = false) :
    (rsCorrBody il s).byteAt a = s.byteAt a ^^^
      xorOver ((List.range s.locCount).filter fun k => decide (corrAddr s il k = some a)) s.mag := by
  rw [rsCorrBody, if_neg (by simp [h]), byteAt_corrFold]

/-- A correction stores inside the codeword of its interleave (R248). -/
theorem corrAddr_bounds {s : State} {il k a : Nat} (hil : il < s.cfg.I) (h : corrAddr s il k = some a) :
    fbBase + s.cfg.S ≤ a ∧ a < fbBase + s.cfg.FLEN := by
  simp only [corrAddr] at h
  split at h
  · next hl =>
    have hp : 254 - (s.loc k).toNat - s.cfg.VF < s.cfg.NSYM := by simp only [CfgRegs.NSYM]; omega
    have := CfgRegs.symbol_lt_FLEN (c := s.cfg) hil hp
    simp only [Option.some.injEq, State.symbolIndex] at h
    omega
  · simp at h

theorem wf_corrOne {il : Nat} {s : State} (k : Nat) (hc : s.cfg.frameOk = true) (hil : il < s.cfg.I)
    (hm : s.mem.wf = true) : (corrOne il s k).mem.wf = true := by
  have hF := CfgRegs.FLEN_le hc
  simp only [corrOne]
  split
  · next hl =>
    have hp : 254 - (s.loc k).toNat - s.cfg.VF < s.cfg.NSYM := by simp only [CfgRegs.NSYM]; omega
    have := CfgRegs.symbol_lt_FLEN (c := s.cfg) hil hp
    exact Memory.wf_store (ramAddr_fb (by simp only [State.symbolIndex]; omega)) _ hm
  · exact hm

theorem wf_rsCorrBody {il : Nat} {s : State} (hc : s.cfg.frameOk = true) (hil : il < s.cfg.I)
    (hm : s.mem.wf = true) : (rsCorrBody il s).mem.wf = true := by
  rw [rsCorrBody]
  split
  · exact hm
  · exact (foldl_keeps (P := fun t : State => t.cfg = s.cfg ∧ t.mem.wf = true) _ s
      (fun t k _ ht => ⟨((corrOne_memOnly il t k).cfg).trans ht.1,
        wf_corrOne k (by rw [ht.1]; exact hc) (by rw [ht.1]; exact hil) ht.2⟩) ⟨rfl, hm⟩).2

/-! ### RS_DECODE (R250) -/

/-- `t` differs from `s` in the RS registers at most. -/
def State.RsOnly (s t : State) : Prop := s.RsMemOnly t ∧ t.mem = s.mem

theorem State.RsOnly.trans {s t u : State} (h : s.RsOnly t) (h' : t.RsOnly u) : s.RsOnly u :=
  ⟨h.1.trans h'.1, h'.2.trans h.2⟩

theorem rsSynBody_rsOnly (il : Nat) (s : State) : s.RsOnly (rsSynBody il s) := ⟨rsSynBody_frame il s, rsSynBody_mem il s⟩
theorem rsBmBody_rsOnly (s : State) : s.RsOnly (rsBmBody s) := ⟨rsBmBody_frame s, rsBmBody_mem s⟩
theorem rsChienBody_rsOnly (s : State) : s.RsOnly (rsChienBody s) := ⟨rsChienBody_frame s, rsChienBody_mem s⟩
theorem rsForneyBody_rsOnly (s : State) : s.RsOnly (rsForneyBody s) := ⟨rsForneyBody_frame s, rsForneyBody_mem s⟩

theorem State.RsOnly.unless {s t : State} {f : State → State} (h : s.RsOnly t) (hf : ∀ t : State, t.RsOnly (f t)) :
    s.RsOnly (if t.rs.stage.uncorr then t else f t) := by
  split
  · exact h
  · exact h.trans (hf t)

/-- The stages before RS_CORR write RS registers only, and RS_CORR ends the codeword (R250). -/
theorem correctCodeword_eq (il : Nat) (s : State) :
    ∃ u, s.RsOnly u ∧ correctCodeword il s = rsCorrBody il u :=
  ⟨_, ((rsBmBody_rsOnly s).unless rsChienBody_rsOnly).unless rsForneyBody_rsOnly, rfl⟩

theorem correctCodeword_frame (il : Nat) (s : State) : s.RsMemOnly (correctCodeword il s) := by
  obtain ⟨u, hu, h⟩ := correctCodeword_eq il s
  rw [h]
  exact hu.1.trans (rsCorrBody_memOnly il u).rsMemOnly

theorem decodeIl_frame (a : DecodeAcc) (il : Nat) : a.st.RsMemOnly (decodeIl a il).st := by
  have h := (rsSynBody_frame il a.st).trans (correctCodeword_frame il (rsSynBody il a.st))
  simp only [decodeIl]
  split
  · split
    · exact h.trans (State.rsMemOnly_setIl _ _ _)
    · exact h.trans (State.rsMemOnly_setIl _ _ _)
  · exact (rsSynBody_frame il a.st).trans (State.rsMemOnly_setIl _ _ _)

/-- What one interleave of RS_DECODE does to the RAM: nothing, or what RS_CORR does after RS registers alone have
changed (R250). -/
theorem decodeIl_mem (a : DecodeAcc) (il : Nat) :
    (decodeIl a il).st.mem = a.st.mem ∨ ∃ u, a.st.RsOnly u ∧ (decodeIl a il).st.mem = (rsCorrBody il u).mem := by
  obtain ⟨u, hu, h⟩ := correctCodeword_eq il (rsSynBody il a.st)
  have hu' := (rsSynBody_rsOnly il a.st).trans hu
  simp only [decodeIl]
  split
  · refine .inr ⟨u, hu', ?_⟩
    split <;> rw [State.setIl_mem, h]
  · exact .inl (by rw [State.setIl_mem, rsSynBody_mem])

theorem decodeFold_frame : ∀ (l : List Nat) (a : DecodeAcc), a.st.RsMemOnly (l.foldl decodeIl a).st
  | [], a => .rfl a.st
  | il :: l, a => (decodeIl_frame a il).trans (decodeFold_frame l (decodeIl a il))

theorem State.rsMemOnly_rs (s : State) (r : RsRegs) : s.RsMemOnly { s with rs := r } := Eq.refl _

theorem rsDecodeBody_frame (s : State) : s.RsMemOnly (rsDecodeBody s) := by
  unfold rsDecodeBody
  exact (decodeFold_frame (List.range s.cfg.I) ⟨s, 0, 0, true⟩).trans (State.rsMemOnly_rs _ _)

@[simp] theorem rsDecodeBody_cfg (s : State) : (rsDecodeBody s).cfg = s.cfg := (rsDecodeBody_frame s).cfg
@[simp] theorem rsDecodeBody_stream (s : State) : (rsDecodeBody s).stream = s.stream := (rsDecodeBody_frame s).stream
@[simp] theorem rsDecodeBody_status (s : State) : (rsDecodeBody s).status = s.status := (rsDecodeBody_frame s).status
@[simp] theorem rsDecodeBody_dp (s : State) : (rsDecodeBody s).dp = s.dp := (rsDecodeBody_frame s).dp

/-- A property of the configuration and the RAM that RS_CORR keeps for the interleaves of the frame is kept by the
whole decode: only RS_CORR writes the RAM (R250). -/
theorem rsDecodeBody_keeps {P : CfgRegs → Memory → Prop}
    (h : ∀ (s : State) (il : Nat), il < s.cfg.I → P s.cfg s.mem → P s.cfg (rsCorrBody il s).mem) (s : State)
    (hs : P s.cfg s.mem) : P s.cfg (rsDecodeBody s).mem := by
  have step : ∀ (a : DecodeAcc) (il : Nat), il < a.st.cfg.I → P a.st.cfg a.st.mem →
      P a.st.cfg (decodeIl a il).st.mem := by
    intro a il hil ha
    rcases decodeIl_mem a il with hm | ⟨u, hu, hm⟩
    · rw [hm]; exact ha
    · rw [hm, ← hu.1.cfg]
      exact h u il (by rw [hu.1.cfg]; exact hil) (by rw [hu.1.cfg, hu.2]; exact ha)
  have hfold : ∀ (l : List Nat) (a : DecodeAcc), a.st.cfg = s.cfg → (∀ il ∈ l, il < s.cfg.I) →
      P s.cfg a.st.mem → P s.cfg (l.foldl decodeIl a).st.mem := by
    intro l
    induction l with
    | nil => intro a _ _ ha; exact ha
    | cons il l ih =>
      intro a hc hl ha
      refine ih _ ((decodeIl_frame a il).cfg.trans hc) (fun j hj => hl j (List.mem_cons_of_mem il hj)) ?_
      have := step a il (by rw [hc]; exact hl il List.mem_cons_self) (by rw [hc]; exact ha)
      rwa [hc] at this
  have hm : (rsDecodeBody s).mem = (decodeAll s).st.mem := by simp only [rsDecodeBody]
  rw [hm]
  exact hfold _ ⟨s, 0, 0, true⟩ (Eq.refl _) (fun il hil => List.mem_range.mp hil) hs

theorem wf_rsDecodeBody {s : State} (hc : s.cfg.frameOk = true) (hm : s.mem.wf = true) :
    (rsDecodeBody s).mem.wf = true :=
  rsDecodeBody_keeps (P := fun c m => c.frameOk = true → m.wf = true)
    (fun _ _ hil h hc => wf_rsCorrBody hc hil (h hc)) s (fun _ => hm) hc

/-- RS_DECODE leaves every byte outside `FB[S .. FLEN-1]` as it was (R250). -/
theorem byteAt_rsDecodeBody (s : State) {a : Nat} (ha : a < fbBase + s.cfg.S ∨ fbBase + s.cfg.FLEN ≤ a) :
    (rsDecodeBody s).byteAt a = s.byteAt a := by
  refine rsDecodeBody_keeps (P := fun c m => (a < fbBase + c.S ∨ fbBase + c.FLEN ≤ a) → m.byteAt a = s.byteAt a)
    (fun t il hil h hat => ?_) s (fun _ => rfl) ha
  by_cases hu : t.rs.stage.uncorr = true
  · rw [rsCorrBody, if_pos hu]; exact h hat
  · refine Eq.trans (byteAt_rsCorrBody il t a (by simpa using hu)) ?_
    rw [List.filter_eq_nil_iff.mpr, xorOver_nil]
    · exact (BitVec.xor_zero).trans (h hat)
    · intro k _ hk
      have := corrAddr_bounds hil (of_decide_eq_true hk)
      omega

end Sys2Proof.Machine
end

