-- ==== Sys2Proof/Laws/Derand.lean ====
section
/-! SUPPORT. What DR_APPLY's body can do: it writes the RAM only, and each byte after it (R283). -/

namespace Sys2Proof.Machine

/-- The masking loop over `n` bytes from `FB[base]`, the mask restarting at `PN[0]` (R282). -/
def maskFb (base n : Nat) (s : State) : State :=
  (List.range n).foldl (fun s k => s.setFb (base + k) (s.fb (base + k) ^^^ pnByte k)) s

theorem foldl_mask_eq (base : Nat) : ∀ (l : List Nat) (s : State), s.cfg.S = base →
    l.foldl (fun s k => s.setFb (s.cfg.S + k) (s.fb (s.cfg.S + k) ^^^ pnByte k)) s =
      l.foldl (fun s k => s.setFb (base + k) (s.fb (base + k) ^^^ pnByte k)) s
  | [], _, _ => rfl
  | k :: l, s, h => by
    rw [List.foldl_cons, List.foldl_cons, h]
    exact foldl_mask_eq base l _ h

theorem drApplyBody_eq (s : State) : drApplyBody s = maskFb s.cfg.S (s.cfg.FLEN - s.cfg.S) s :=
  foldl_mask_eq s.cfg.S _ s rfl

theorem maskFb_succ (base n : Nat) (s : State) :
    maskFb base (n + 1) s =
      (maskFb base n s).setFb (base + n) ((maskFb base n s).fb (base + n) ^^^ pnByte n) := by
  simp [maskFb, List.range_succ]

theorem memOnly_maskFb (base n : Nat) (s : State) : s.MemOnly (maskFb base n s) :=
  foldl_memOnly (fun s _ => s.memOnly_setFb _ _) _ s

/-- What the RAM holds after the masking loop. -/
theorem byteAt_maskFb (base n : Nat) (s : State) (a : Nat) :
    (maskFb base n s).byteAt a =
      if fbBase + base ≤ a ∧ a < fbBase + base + n then s.byteAt a ^^^ pnByte (a - (fbBase + base))
      else s.byteAt a := by
  induction n with
  | zero => rw [if_neg (by omega)]; rfl
  | succ n ih =>
    rw [maskFb_succ, State.byteAt_setFb]
    by_cases h : fbBase + (base + n) = a
    · subst h
      rw [if_pos rfl, if_pos (by omega), State.fb, ih, if_neg (by omega)]
      congr 2
      omega
    · rw [if_neg h, ih]
      by_cases h' : fbBase + base ≤ a ∧ a < fbBase + base + n
      · rw [if_pos h', if_pos (by omega)]
      · rw [if_neg h', if_neg (by omega)]

theorem wf_maskFb {base n : Nat} {s : State} (h : base + n ≤ Config.fbSize) (hm : s.mem.wf = true) :
    (maskFb base n s).mem.wf = true := by
  refine foldl_keeps (P := fun t : State => t.mem.wf = true) _ s (fun t k hk ht => ?_) hm
  have hk : k < n := List.mem_range.mp hk
  exact Memory.wf_store (ramAddr_fb (by omega)) _ ht

theorem drApplyBody_memOnly (s : State) : s.MemOnly (drApplyBody s) := by
  rw [drApplyBody_eq]
  exact memOnly_maskFb _ _ s

/-- Every byte of the RAM after DR_APPLY (R283). -/
theorem byteAt_drApplyBody (s : State) (a : Nat) :
    (drApplyBody s).byteAt a =
      if fbBase + s.cfg.S ≤ a ∧ a < fbBase + s.cfg.FLEN then s.byteAt a ^^^ pnByte (a - (fbBase + s.cfg.S))
      else s.byteAt a := by
  rw [drApplyBody_eq, byteAt_maskFb]
  have := CfgRegs.S_le_FLEN (c := s.cfg)
  by_cases h : fbBase + s.cfg.S ≤ a ∧ a < fbBase + s.cfg.FLEN
  · rw [if_pos h, if_pos (by omega)]
  · rw [if_neg h, if_neg (by omega)]

theorem wf_drApplyBody {s : State} (hc : s.cfg.frameOk = true) (hm : s.mem.wf = true) :
    (drApplyBody s).mem.wf = true := by
  rw [drApplyBody_eq]
  refine wf_maskFb ?_ hm
  have := CfgRegs.FLEN_le hc
  have := CfgRegs.S_le_FLEN (c := s.cfg)
  omega

/-- The mask has period 255 bytes (R281). -/
theorem pnByte_add_period (k : Nat) : pnByte (k + 255) = pnByte k := by simp [pnByte]

end Sys2Proof.Machine
end

