-- ==== Sys2Proof/Laws/Sync.lean ====
section
/-! SUPPORT. What the marker search can answer: where it stops, and that the bytes before the answer are the marker
(R290). -/

namespace Sys2Proof.Machine

/-- The answer of the search lies in what it scanned. -/
theorem searchFrom_bounds (s : State) : ∀ (n q idx r : Nat), searchFrom s n q idx = some r → q < r ∧ r ≤ q + n
  | 0, _, _, _, h => by simp [searchFrom] at h
  | n + 1, q, idx, r, h => by
    simp only [searchFrom] at h
    split at h
    · split at h
      · simp only [Option.some.injEq] at h; omega
      · have := searchFrom_bounds s n (q + 1) (idx + 1) r h; omega
    · have := searchFrom_bounds s n (q + 1) _ r h; omega

/-- The answer of the search ends a full match: the index counts marker bytes already matched (R290). -/
theorem searchFrom_sound (s : State) (q₀ : Nat) : ∀ (n q idx r : Nat), q₀ + idx ≤ q → idx < s.cfg.S →
    (∀ j < idx, s.inByte (q - idx + j) = s.cfg.MK j) → searchFrom s n q idx = some r →
    q₀ + s.cfg.S ≤ r ∧ ∀ j < s.cfg.S, s.inByte (r - s.cfg.S + j) = s.cfg.MK j
  | 0, _, _, _, _, _, _, h => by simp [searchFrom] at h
  | n + 1, q, idx, r, hq, hS, hm, h => by
    simp only [searchFrom] at h
    split at h
    · next hb =>
      have hm' : ∀ j < idx + 1, s.inByte (q + 1 - (idx + 1) + j) = s.cfg.MK j := by
        intro j hj
        rw [Nat.add_sub_add_right]
        by_cases hlt : j < idx
        · exact hm j hlt
        · obtain rfl : j = idx := by omega
          rw [Nat.sub_add_cancel (by omega)]
          exact hb
      split at h
      · next hs =>
        simp only [Option.some.injEq] at h
        subst h
        refine ⟨by omega, fun j hj => ?_⟩
        rw [← hs]
        exact hm' j (by omega)
      · next hs => exact searchFrom_sound s q₀ n (q + 1) (idx + 1) r (by omega) (by omega) hm' h
    · next hb =>
      by_cases h0 : s.inByte q = s.cfg.MK 0
      · have hidx : idx ≠ 0 := by rintro rfl; exact hb h0
        rw [if_pos h0] at h
        refine searchFrom_sound s q₀ n (q + 1) 1 r (by omega) (by omega) (fun j hj => ?_) h
        obtain rfl : j = 0 := by omega
        simpa using h0
      · rw [if_neg h0] at h
        exact searchFrom_sound s q₀ n (q + 1) 0 r (by omega) (by omega) (fun j hj => absurd hj (by omega)) h

/-- Where `find` stops (R290). -/
theorem find_bounds {s : State} {q r : Nat} (h : s.find q = some r) : q < r ∧ r ≤ s.inLen := by
  have := searchFrom_bounds s _ _ _ _ h
  omega

/-- What `find` has found (R290). -/
theorem find_sound {s : State} {q r : Nat} (hS : 1 ≤ s.cfg.S) (h : s.find q = some r) :
    q + s.cfg.S ≤ r ∧ ∀ j < s.cfg.S, s.inByte (r - s.cfg.S + j) = s.cfg.MK j :=
  searchFrom_sound s q _ q 0 r (by omega) hS (fun j hj => absurd hj (by omega)) h

theorem find_eq_none_of_le {s : State} {q : Nat} (h : s.inLen ≤ q) : s.find q = none := by
  rw [State.find, Nat.sub_eq_zero_of_le h, searchFrom]

/-- The search reads the stream, its length and the marker only. -/
theorem searchFrom_congr {s t : State} (hi : ∀ q, s.inByte q = t.inByte q) (hc : s.cfg = t.cfg) :
    ∀ n q idx, searchFrom s n q idx = searchFrom t n q idx
  | 0, _, _ => rfl
  | n + 1, q, idx => by simp only [searchFrom, hi, hc, searchFrom_congr hi hc n]

end Sys2Proof.Machine
end

