-- ==== Sys2Proof/Laws/Cadu.lean ====
section
/-! SUPPORT. What CADU_READ's body can do: which fields it writes, that it stores in `FB[0 .. FLEN-1]` only, and that
the RAM keeps its canonical form (R312). -/

namespace Sys2Proof.Machine

/-- `t` differs from `s` at most in the stream flags, `FRAME_VALID`, the stream registers other than `IN_LEN`, the RS
registers and the RAM. -/
def State.ReadOnlyRest (s t : State) : Prop :=
  t = { s with
    status := { s.status with eos := t.status.eos, short := t.status.short, found := t.status.found,
                              frameValid := t.status.frameValid, lockMiss := t.status.lockMiss },
    stream := { t.stream with inLen := s.stream.inLen }, rs := t.rs, mem := t.mem }

/-- What a part of CADU_READ may do (R312): write the fields `ReadOnlyRest` leaves free, and store in the frame. -/
structure CaduFrame (s t : State) : Prop where
  rest : s.ReadOnlyRest t
  outside : ∀ a, a < fbBase ∨ fbBase + s.cfg.FLEN ≤ a → t.byteAt a = s.byteAt a
  wf : s.cfg.frameOk = true → s.mem.wf = true → t.mem.wf = true

theorem State.ReadOnlyRest.cfg {s t : State} (h : s.ReadOnlyRest t) : t.cfg = s.cfg := by rw [h]

theorem State.ReadOnlyRest.trans {s t u : State} (h : s.ReadOnlyRest t) (h' : t.ReadOnlyRest u) :
    s.ReadOnlyRest u := by
  unfold State.ReadOnlyRest at *
  rw [h] at h'
  exact h'

theorem CaduFrame.cfg {s t : State} (h : CaduFrame s t) : t.cfg = s.cfg := h.rest.cfg
theorem CaduFrame.inLen {s t : State} (h : CaduFrame s t) : t.inLen = s.inLen := by
  simp only [State.inLen]; rw [h.rest]
theorem CaduFrame.dp {s t : State} (h : CaduFrame s t) : t.dp = s.dp := by rw [h.rest]

theorem CaduFrame.trans {s t u : State} (h : CaduFrame s t) (h' : CaduFrame t u) : CaduFrame s u where
  rest := h.rest.trans h'.rest
  outside a ha := (h'.outside a (by rw [h.cfg]; exact ha)).trans (h.outside a ha)
  wf hc hm := h'.wf (by rw [h.cfg]; exact hc) (h.wf hc hm)

/-- A part that leaves the RAM alone. -/
theorem CaduFrame.ofMem {s t : State} (h : s.ReadOnlyRest t) (hm : t.mem = s.mem) : CaduFrame s t where
  rest := h
  outside _ _ := State.byteAt_congr hm _
  wf _ := by rw [hm]; exact id

theorem CaduFrame.rfl (s : State) : CaduFrame s s := .ofMem (Eq.refl _) (Eq.refl _)
theorem caduFrame_setRdptr (s : State) (q : Nat) : CaduFrame s (s.setRdptr q) := .ofMem (Eq.refl _) (Eq.refl _)
theorem caduFrame_setSyncOff (s : State) (q : Nat) : CaduFrame s (s.setSyncOff q) := .ofMem (Eq.refl _) (Eq.refl _)
theorem caduFrame_countSync (s : State) : CaduFrame s s.countSync := .ofMem (Eq.refl _) (Eq.refl _)
theorem caduFrame_setFrameValid (s : State) (v : Bool) : CaduFrame s (s.setFrameValid v) :=
  .ofMem (Eq.refl _) (Eq.refl _)
theorem caduFrame_setStreamFlags (s : State) (e sh f m : Bool) : CaduFrame s (s.setStreamFlags e sh f m) :=
  .ofMem (Eq.refl _) (Eq.refl _)
theorem caduFrame_shortRead (p : Nat) (s : State) : CaduFrame s (shortRead p s) := .ofMem (Eq.refl _) (Eq.refl _)

theorem caduFrame_fillFb (s : State) {base n : Nat} (h : base + n ≤ s.cfg.FLEN) (f : Nat → Byte) :
    CaduFrame s (s.fillFb base n f) where
  rest := by
    have hm := s.memOnly_fillFb base n f
    unfold State.MemOnly at hm
    unfold State.ReadOnlyRest
    rw [hm]
  outside a ha := by rw [State.byteAt_fillFb, if_neg (by omega)]
  wf hc hm := State.wf_fillFb (h.trans (CfgRegs.FLEN_le hc)) f hm

theorem caduFrame_drApplyBody (s : State) : CaduFrame s (drApplyBody s) where
  rest := by
    have hm := drApplyBody_memOnly s
    unfold State.MemOnly at hm
    unfold State.ReadOnlyRest
    rw [hm]
  outside a ha := by rw [byteAt_drApplyBody, if_neg (by omega)]
  wf := wf_drApplyBody

theorem caduFrame_rsDecodeBody (s : State) : CaduFrame s (rsDecodeBody s) where
  rest := by
    have hm := rsDecodeBody_frame s
    unfold State.RsMemOnly at hm
    unfold State.ReadOnlyRest
    rw [hm]
  outside a ha := byteAt_rsDecodeBody s (by omega)
  wf := wf_rsDecodeBody

theorem caduFrame_endOfStream (s : State) : CaduFrame s (endOfStream s) := .ofMem (Eq.refl _) (Eq.refl _)

theorem caduFrame_finishFrame (s : State) : CaduFrame s (finishFrame s) := by
  unfold finishFrame
  refine .trans (t := if s.cfg.rsCfg.drEn then drApplyBody s else s) ?_ ?_
  · split
    · exact caduFrame_drApplyBody s
    · exact .rfl s
  · generalize (if s.cfg.rsCfg.drEn then drApplyBody s else s) = t
    refine .trans (t := if t.cfg.rsCfg.rsEn then rsDecodeBody t else t) ?_ (.ofMem (Eq.refl _) (Eq.refl _))
    split
    · exact caduFrame_rsDecodeBody t
    · exact .rfl t

theorem caduFrame_readPayload (q : Nat) (s : State) : CaduFrame s (readPayload q s) := by
  have hF := CfgRegs.S_le_FLEN (c := s.cfg)
  simp only [readPayload]
  split
  · exact (caduFrame_fillFb s (by omega) _).trans (caduFrame_shortRead _ _)
  · exact ((caduFrame_fillFb s (by omega) _).trans (caduFrame_setRdptr _ _)).trans (caduFrame_finishFrame _)

theorem caduFrame_caduReadBody (lk : ReadMode) (s : State) : CaduFrame s (caduReadBody lk s) := by
  have hF := CfgRegs.S_le_FLEN (c := s.cfg)
  cases lk with
  | search =>
    simp only [caduReadBody, caduSearch]
    split
    · exact caduFrame_endOfStream s
    · next r _ =>
      have h := ((caduFrame_setSyncOff s r).trans (caduFrame_countSync _)).trans
        (caduFrame_setStreamFlags _ false false true false)
      exact h.trans ((caduFrame_fillFb _ (by rw [h.cfg]; omega) _).trans (caduFrame_readPayload _ _))
  | locked =>
    simp only [caduReadBody, caduLocked]
    split
    · exact caduFrame_endOfStream s
    · have h := (caduFrame_fillFb s (base := 0) (n := min (s.inLen - s.rdptr) s.cfg.S) (by omega)
        (fun j => s.inByte (s.rdptr + j))).trans (caduFrame_setStreamFlags _ false false false
          ((List.range (min (s.inLen - s.rdptr) s.cfg.S)).any fun j =>
            decide (s.inByte (s.rdptr + j) ≠ s.cfg.MK j)))
      split
      · exact h.trans (caduFrame_shortRead _ _)
      · exact h.trans ((caduFrame_setSyncOff _ _).trans (caduFrame_readPayload _ _))

end Sys2Proof.Machine
end

