-- ==== Sys2Proof/Laws/Depacketizer.lean ====
section
/-! SUPPORT. What the DP procedures can do: they write the DP registers and `SL[0 .. WC-1]` only, the unpacking loop
always reaches its end, and the DP invariant is kept (R341 to R366). -/

namespace Sys2Proof.Machine

/-- `t` differs from `s` in the DP registers and the RAM at most. -/
def State.DpMemOnly (s t : State) : Prop := t = { s with dp := t.dp, mem := t.mem }

theorem State.DpMemOnly.trans {s t u : State} (h : s.DpMemOnly t) (h' : t.DpMemOnly u) : s.DpMemOnly u := by
  unfold State.DpMemOnly at *
  rw [h] at h'
  exact h'

/-- What a DP procedure may do: write the DP registers, and store in `SL[0 .. WC-1]` (R344, R345). -/
structure DpFrame (s t : State) : Prop where
  rest : s.DpMemOnly t
  outside : ∀ a, a < slBase ∨ slBase + 2 * s.cfg.WC ≤ a → t.byteAt a = s.byteAt a
  wf : s.cfg.WC ≤ Config.slCells → s.mem.wf = true → t.mem.wf = true

theorem DpFrame.cfg {s t : State} (h : DpFrame s t) : t.cfg = s.cfg := by rw [h.rest]

theorem DpFrame.trans {s t u : State} (h : DpFrame s t) (h' : DpFrame t u) : DpFrame s u where
  rest := h.rest.trans h'.rest
  outside a ha := (h'.outside a (by rw [h.cfg]; exact ha)).trans (h.outside a ha)
  wf hc hm := h'.wf (by rw [h.cfg]; exact hc) (h.wf hc hm)

theorem DpFrame.rfl (s : State) : DpFrame s s := ⟨Eq.refl _, fun _ _ => Eq.refl _, fun _ => id⟩

theorem dpFrame_setDp (s : State) (d : DpRegs) : DpFrame s (s.setDp d) :=
  ⟨Eq.refl _, fun _ _ => Eq.refl _, fun _ => id⟩

/-- A procedure that stores nothing reads the same frame before and after. -/
theorem DpFrame.fb {s t : State} (h : DpFrame s t) {i : Nat} (hi : i < Config.fbSize) : t.fb i = s.fb i :=
  h.outside _ (.inl (by simp only [fbBase, slBase, Config.fbSize] at *; omega))

theorem dpFrame_setSl (s : State) {i : Nat} (h : i < s.cfg.WC) (v : BitVec 16) : DpFrame s (s.setSl i v) where
  rest := Eq.refl _
  outside a ha := by
    rw [State.byteAt_setSl, if_neg (by omega), if_neg (by omega)]
  wf hc hm := by
    have hr := ramAddr_sl (i := i) (by omega)
    exact Memory.wf_store hr.2 _ (Memory.wf_store hr.1 _ hm)

/-! ### Starting a line (R344) -/

/-- The filling loop of `begin_line` over the first `n` cells. -/
def fillSl (v : BitVec 16) (n : Nat) (s : State) : State := (List.range n).foldl (fun s i => s.setSl i v) s

theorem fillSl_succ (v : BitVec 16) (n : Nat) (s : State) : fillSl v (n + 1) s = (fillSl v n s).setSl n v := by
  simp [fillSl, List.range_succ]

theorem foldl_fill_eq (v : BitVec 16) : ∀ (l : List Nat) (s : State), s.cfg.dpFill = v →
    l.foldl (fun s i => s.setSl i s.cfg.dpFill) s = l.foldl (fun s i => s.setSl i v) s
  | [], _, _ => rfl
  | i :: l, s, h => by
    rw [List.foldl_cons, List.foldl_cons, h]
    exact foldl_fill_eq v l _ h

theorem dpFrame_fillSl (v : BitVec 16) (s : State) : ∀ n, n ≤ s.cfg.WC → DpFrame s (fillSl v n s)
  | 0, _ => .rfl s
  | n + 1, h => by
    have ih := dpFrame_fillSl v s n (by omega)
    rw [fillSl_succ]
    exact ih.trans (dpFrame_setSl _ (by rw [ih.cfg]; omega) v)

theorem sl_fillSl (v : BitVec 16) (s : State) (j : Nat) : ∀ n, (fillSl v n s).sl j = if j < n then v else s.sl j
  | 0 => rfl
  | n + 1 => by
    rw [fillSl_succ, State.sl_setSl, sl_fillSl v s j n]
    by_cases h : n = j
    · rw [if_pos h, if_pos (by omega)]
    · rw [if_neg h]
      by_cases h' : j < n
      · rw [if_pos h', if_pos (by omega)]
      · rw [if_neg h', if_neg (by omega)]

/-- The registers a new line starts with (R344). -/
def DpRegs.lineStart (d : DpRegs) : DpRegs := { d with cursor := 0, shift2 := 3, carryV := false, inc := false }

theorem fillSl_dp (v : BitVec 16) (s : State) : ∀ n, (fillSl v n s).dp = s.dp
  | 0 => rfl
  | n + 1 => by rw [fillSl_succ]; exact fillSl_dp v s n

theorem beginLine_eq (s : State) : beginLine s = (fillSl s.cfg.dpFill s.cfg.WC s).setDp s.dp.lineStart := by
  have hd := fillSl_dp s.cfg.dpFill s s.cfg.WC
  unfold beginLine
  rw [foldl_fill_eq s.cfg.dpFill _ s rfl]
  change (fillSl s.cfg.dpFill s.cfg.WC s).setDp (DpRegs.lineStart (fillSl s.cfg.dpFill s.cfg.WC s).dp) = _
  rw [hd]

theorem dpFrame_beginLine (s : State) : DpFrame s (beginLine s) := by
  rw [beginLine_eq]
  exact (dpFrame_fillSl _ s _ (Nat.le_refl _)).trans (dpFrame_setDp _ _)

@[simp] theorem beginLine_dp (s : State) : (beginLine s).dp = s.dp.lineStart := by rw [beginLine_eq]; rfl

theorem sl_beginLine (s : State) (j : Nat) : (beginLine s).sl j = if j < s.cfg.WC then s.cfg.dpFill else s.sl j := by
  rw [beginLine_eq]
  exact sl_fillSl _ s j _

/-! ### Samples (R345, R349) -/

theorem dpFrame_emit (v : BitVec 10) {s : State} (h : s.dp.cursor.toNat < s.cfg.WC) : DpFrame s (emit v s) :=
  (dpFrame_setSl s h _).trans (dpFrame_setDp _ _)

theorem dpFrame_takeCarried (c : Nat) {s : State} (h : s.dp.cursor.toNat < s.cfg.WC) :
    DpFrame s (takeCarried c s) :=
  ((dpFrame_setDp s _).trans (dpFrame_emit _ (s := s.setDp _) h)).trans (dpFrame_setDp _ _)

theorem dpFrame_takeSample (c : Nat) {s : State} (h : s.dp.cursor.toNat < s.cfg.WC) : DpFrame s (takeSample c s) :=
  (dpFrame_emit _ h).trans (dpFrame_setDp _ _)

theorem dpFrame_unpackLoop : ∀ (n c : Nat) (s : State), DpFrame s (unpackLoop n c s)
  | 0, _, s => .rfl s
  | n + 1, c, s => by
    simp only [unpackLoop]
    split
    · exact dpFrame_setDp s _
    · next h =>
      split
      · exact (dpFrame_takeCarried c (by omega)).trans (dpFrame_unpackLoop n _ _)
      · split
        · exact dpFrame_setDp s _
        · split
          · exact dpFrame_setDp s _
          · exact (dpFrame_takeSample c (by omega)).trans (dpFrame_unpackLoop n _ _)

theorem dpFrame_unpack (c : Nat) (s : State) : DpFrame s (unpack c s) := dpFrame_unpackLoop _ c s

theorem dpFrame_startLine (f : Nat) (s : State) : DpFrame s (startLine f s) := by
  simp only [startLine]
  split
  · exact (dpFrame_beginLine s).trans (dpFrame_setDp _ _)
  · exact (dpFrame_beginLine s).trans ((dpFrame_setDp _ _).trans (dpFrame_unpack _ _))

theorem dpFrame_seek (p₀ : Nat) (s : State) : DpFrame s (seek p₀ s) := by
  simp only [seek]
  split
  · exact .rfl s
  · split
    · exact dpFrame_setDp s _
    · split
      · exact .rfl s
      · split
        · split
          · exact (dpFrame_setDp s _).trans (dpFrame_setDp _ _)
          · exact (dpFrame_setDp s _).trans (dpFrame_startLine _ _)
        · split
          · exact dpFrame_setDp s _
          · exact dpFrame_startLine _ s

theorem dpFrame_dpFrameBody (s : State) : DpFrame s (dpFrameBody s) := by
  simp only [dpFrameBody]
  split
  · exact dpFrame_setDp s _
  · split
    · exact dpFrame_seek 0 s
    · split
      · exact (dpFrame_setDp s _).trans (dpFrame_setDp _ _)
      · exact (dpFrame_setDp s _).trans (dpFrame_unpack _ _)

theorem dpFrame_dpAckBody (s : State) : DpFrame s (dpAckBody s) := by
  simp only [dpAckBody]
  split
  · exact (dpFrame_setDp s _).trans (dpFrame_seek _ _)
  · exact dpFrame_setDp s _

theorem dpFrame_dpFlushBody (s : State) : DpFrame s (dpFlushBody s) := by
  simp only [dpFlushBody]
  split
  · exact dpFrame_setDp s _
  · exact .rfl s

/-! ### The unpacking loop ends (R349) -/

/-- Turns the loop may still need from offset `c`: one for a pending carry byte, one a zone byte, one to end. -/
def turnsLeft (c : Nat) (s : State) : Nat := (if s.dp.carryV then 1 else 0) + (s.cfg.ZS - c) + 1

theorem takeCarried_carryV (c : Nat) (s : State) : (takeCarried c s).dp.carryV = false := rfl
theorem takeSample_carryV (c : Nat) (s : State) : (takeSample c s).dp.carryV = s.dp.carryV := rfl
theorem takeCarried_cfg (c : Nat) (s : State) : (takeCarried c s).cfg = s.cfg := rfl
theorem takeSample_cfg (c : Nat) (s : State) : (takeSample c s).cfg = s.cfg := rfl

/-- With enough turns the loop ends a line or spans, and never stops for want of turns (R349). -/
theorem unpackLoop_ends : ∀ (n c : Nat) (s : State), turnsLeft c s ≤ n →
    (unpackLoop n c s).dp.phase = .lineDone ∨ (unpackLoop n c s).dp.phase = .span
  | 0, _, _, h => absurd h (by unfold turnsLeft; omega)
  | n + 1, c, s, h => by
    simp only [unpackLoop]
    split
    · exact .inl rfl
    · split
      · next hv =>
        refine unpackLoop_ends n _ _ ?_
        have : s.cfg.ZS - (if s.dp.shift = 0 then c + 1 else c) ≤ s.cfg.ZS - c := by split <;> omega
        simp only [turnsLeft, hv, if_true, takeCarried_carryV, takeCarried_cfg] at h ⊢
        simp only [Bool.false_eq_true, if_false]
        omega
      · next hv =>
        split
        · exact .inr rfl
        · split
          · exact .inr rfl
          · refine unpackLoop_ends n _ _ ?_
            have hv : s.dp.carryV = false := by simpa using hv
            simp only [turnsLeft, hv, takeSample_carryV, takeSample_cfg, Bool.false_eq_true, if_false] at h ⊢
            split <;> omega

/-- More turns than enough change nothing: the loop is `unpack` whatever bound is taken. -/
theorem unpackLoop_mono : ∀ (n m c : Nat) (s : State), turnsLeft c s ≤ n → n ≤ m →
    unpackLoop m c s = unpackLoop n c s
  | 0, _, _, _, h, _ => absurd h (by unfold turnsLeft; omega)
  | n + 1, 0, _, _, _, h => absurd h (by omega)
  | n + 1, m + 1, c, s, h, hm => by
    simp only [unpackLoop]
    split
    · rfl
    · split
      · next hv =>
        refine unpackLoop_mono n m _ _ ?_ (by omega)
        have : s.cfg.ZS - (if s.dp.shift = 0 then c + 1 else c) ≤ s.cfg.ZS - c := by split <;> omega
        simp only [turnsLeft, hv, if_true, takeCarried_carryV, takeCarried_cfg] at h ⊢
        simp only [Bool.false_eq_true, if_false]
        omega
      · next hv =>
        split
        · rfl
        · split
          · rfl
          · refine unpackLoop_mono n m _ _ ?_ (by omega)
            have hv : s.dp.carryV = false := by simpa using hv
            simp only [turnsLeft, hv, takeSample_carryV, takeSample_cfg, Bool.false_eq_true, if_false] at h ⊢
            split <;> omega

theorem turnsLeft_le (c : Nat) (s : State) : turnsLeft c s ≤ s.cfg.ZS + 2 := by
  unfold turnsLeft
  split <;> omega

/-- `unpack` ends a line or spans (R349, R341). -/
theorem unpack_ends (c : Nat) (s : State) : (unpack c s).dp.phase = .lineDone ∨ (unpack c s).dp.phase = .span :=
  unpackLoop_ends _ c s (turnsLeft_le c s)

/-- `unpack` is the loop of R349: its first turn, then the rest, with no bound on the turns. -/
theorem unpack_eq (c : Nat) (s : State) : unpack c s =
    if s.cfg.WC ≤ s.dp.cursor.toNat then lineComplete c s
    else if s.dp.carryV then unpack (if s.dp.shift = 0 then c + 1 else c) (takeCarried c s)
    else if s.cfg.ZS ≤ c then spanBoundary s
    else if c + 1 = s.cfg.ZS then spanCarry (s.zone c) s
    else unpack (if s.dp.shift = 0 then c + 2 else c + 1) (takeSample c s) := by
  have hn := turnsLeft_le c s
  rw [unpack, show s.cfg.ZS + 2 = (s.cfg.ZS + 1) + 1 from rfl, unpackLoop]
  split
  · rfl
  · split
    · next hv =>
      have : s.cfg.ZS - (if s.dp.shift = 0 then c + 1 else c) ≤ s.cfg.ZS := by omega
      refine (unpackLoop_mono _ _ _ _ ?_ (by rw [takeCarried_cfg]; omega)).symm
      simp only [turnsLeft, takeCarried_carryV, takeCarried_cfg, Bool.false_eq_true, if_false]
      omega
    · next hv =>
      split
      · rfl
      · split
        · rfl
        · have hv : s.dp.carryV = false := by simpa using hv
          refine (unpackLoop_mono _ _ _ _ ?_ (by rw [takeSample_cfg]; omega)).symm
          simp only [turnsLeft, takeSample_carryV, takeSample_cfg, hv, Bool.false_eq_true, if_false]
          split <;> omega

end Sys2Proof.Machine
end

