-- ==== Sys2Proof/Laws/Exec.lean ====
section
/-! SUPPORT. The shape every command has: its checks in order, then its body, then the completion (R501). -/

namespace Sys2Proof.Machine

/-- The checks of a command, in the order of R504. -/
def checksOf (i : Instr) (s : State) : List (Bool × ErrCode) :=
  match i with
  | .gfDiv _ b => [(decide (b = 0), .divZero)]
  | .rsSyn il | .rsCorr il => [(!s.cfg.frameOk, .cfg), (decide (s.cfg.I ≤ il), .range)]
  | .rsBm | .rsChien | .rsForney => [(!s.cfg.rsOk, .cfg)]
  | .rsDecode | .drApply => [(!s.cfg.frameOk, .cfg)]
  | .syncFind => [(!s.cfg.syncOk, .cfg)]
  | .caduRead _ => [(decide (s.dp.phase = .lineDone), .seq), (!s.cfg.frameOk, .cfg)]
  | .dpFrame => [(decide (s.dp.phase = .lineDone), .seq), (!s.cfg.dpOk, .cfg)]
  | .dpAck => [(decide (s.dp.phase ≠ .lineDone), .seq), (!s.cfg.dpOk, .cfg)]
  | .dpFlush => [(!s.cfg.dpOk, .cfg)]
  | .nop | .gfLog _ | .gfExp _ | .gfMul _ _ | .syncSkip _ | .dpReset | .coreReset => []

/-- The body of a command, without checks and completion. -/
def bodyOf (i : Instr) (s : State) : State :=
  match i with
  | .nop => s
  | .gfLog a =>
    { s with gfRes := BitVec.ofNat 8 (glog s.basis a), status := { s.status with log0 := decide (a = 0) } }
  | .gfExp a => { s with gfRes := gexp s.basis a.toNat }
  | .gfMul a b => { s with gfRes := gmul s.basis a b }
  | .gfDiv a b => { s with gfRes := gdiv s.basis a b }
  | .rsSyn il => rsSynBody il s
  | .rsBm => rsBmBody s
  | .rsChien => rsChienBody s
  | .rsForney => rsForneyBody s
  | .rsCorr il => rsCorrBody il s
  | .rsDecode => rsDecodeBody s
  | .drApply => drApplyBody s
  | .syncFind => syncFindBody s
  | .syncSkip n => syncSkipBody n s
  | .caduRead lk => caduReadBody lk s
  | .dpFrame => dpFrameBody s
  | .dpAck => dpAckBody s
  | .dpFlush => dpFlushBody s
  | .dpReset => dpResetBody s
  | .coreReset => coreResetBody s

/-- Every command is its checks, its body and the completion. -/
theorem exec_eq (i : Instr) (s : State) : exec i s = runCommand (checksOf i s) (bodyOf i) s := by
  cases i <;> rfl

/-- Every check of every command has an error code of its own. -/
theorem checksOf_codes (i : Instr) (s : State) : ∀ x ∈ checksOf i s, x.2 ≠ .ok := by
  cases i <;> simp [checksOf]

/-- A command whose checks pass runs its body and completes with OK. -/
theorem exec_passed {i : Instr} {s : State} (h : firstFailure (checksOf i s) = none) :
    exec i s = .next ((bodyOf i s).complete .ok) := by
  rw [exec_eq]
  exact runCommand_passed h

/-- A command with a failing check completes with its code and writes nothing else. -/
theorem exec_failed {i : Instr} {s : State} {code : ErrCode} (h : firstFailure (checksOf i s) = some code) :
    exec i s = .next (s.complete code) := by
  rw [exec_eq]
  exact runCommand_failed h

/-- Everything a command can do. -/
theorem exec_cases {i : Instr} {s t : State} (h : exec i s = .next t) :
    (∃ code, firstFailure (checksOf i s) = some code ∧ t = s.complete code) ∨
      (firstFailure (checksOf i s) = none ∧ t = (bodyOf i s).complete .ok) := by
  rw [exec_eq] at h
  exact runCommand_cases h

/-- While a command is pending and no host access passes first, the CORE moves. -/
theorem turn_core {s : State} (hb : s.status.busy = true) (h : s.host = [] ∨ s.delay = 0) : s.turn = .core := by
  unfold State.turn
  rcases h with h | h
  · simp [h, hb]
  · cases s.host <;> simp [hb, h]

/-- With no command pending, or host accesses still to pass, the host moves. -/
theorem turn_host {s : State} {op : HostOp} {rest : List HostOp} (ho : s.host = op :: rest)
    (h : s.status.busy = false ∨ s.delay ≠ 0) : s.turn = .host op rest := by
  unfold State.turn
  rcases h with h | h <;> simp [ho, h]

/-- A run of one more step, when the step answers a next state. -/
theorem run_succ (M : Host.Core) (n : Nat) {s t : M.State} (h : M.step s = .next t) : M.run (n + 1) s = M.run n t := by
  simp [Host.Core.run, h]

/-- The same for this machine. -/
theorem core_run_succ (n : Nat) {s t : State} (h : step s = .next t) :
    Sys2Proof.core.run (n + 1) s = Sys2Proof.core.run n t :=
  run_succ Sys2Proof.core n h

end Sys2Proof.Machine
end

