-- ==== Sys2Proof/Laws/Bus.lean ====
section
/-! SUPPORT. What a host access can do: the three ends of an access, what lies at a mapped address, and that writes keep
the RAM's canonical form. -/

namespace Sys2Proof.Machine

/-- Everything a read can do (R100, R109). -/
theorem memRead_cases (s : State) (addr : Word) (width : Nat) :
    (s.checkAccess true addr width = .hostBus ∧
      s.memRead addr width = { s with hostBus := true, busData := Config.undefinedRead s.freeCount,
                                      freeCount := s.freeCount + 1 }) ∨
    (s.checkAccess true addr width = .hazard ∧
      s.memRead addr width = { s with hazard := true, busData := Config.undefinedRead s.freeCount,
                                      freeCount := s.freeCount + 1 }) ∨
    (∃ t, s.checkAccess true addr width = .perform t ∧
      s.memRead addr width =
        if s.hazard || s.hostBus then { s with busData := Config.undefinedRead s.freeCount,
                                               freeCount := s.freeCount + 1 }
        else { s with busData := s.readTarget t }) := by
  unfold State.memRead
  cases h : s.checkAccess true addr width with
  | hostBus => exact .inl ⟨rfl, rfl⟩
  | hazard => exact .inr (.inl ⟨rfl, rfl⟩)
  | perform t => exact .inr (.inr ⟨t, rfl, rfl⟩)

/-- Everything a write can do (R100). -/
theorem memWrite_cases (s : State) (addr : Word) (width : Nat) (v : Word) :
    (s.checkAccess false addr width = .hostBus ∧ s.memWrite addr width v = { s with hostBus := true }) ∨
    (s.checkAccess false addr width = .hazard ∧ s.memWrite addr width v = { s with hazard := true }) ∨
    (∃ t, s.checkAccess false addr width = .perform t ∧ s.memWrite addr width v = s.writeTarget v t) := by
  unfold State.memWrite
  cases h : s.checkAccess false addr width with
  | hostBus => exact .inl ⟨rfl, rfl⟩
  | hazard => exact .inr (.inl ⟨rfl, rfl⟩)
  | perform t => exact .inr (.inr ⟨t, rfl, rfl⟩)

/-- When an access is performed (R100): it is wide, aligned and mapped, and with a command pending it reads
`STATUS`. -/
theorem checkAccess_perform {s : State} {isRead : Bool} {addr : Word} {width : Nat} {t : Target}
    (h : s.checkAccess isRead addr width = .perform t) :
    width = 4 ∧ addr.toNat % 4 = 0 ∧ Target.ofAddr addr.toNat = some t ∧
      (s.status.busy = true → isRead = true ∧ t = .reg .status) := by
  unfold State.checkAccess at h
  split at h
  · cases h
  · next hw =>
    have hw := not_or.mp hw
    split at h
    · cases h
    · next t' ht =>
      split at h
      · cases h
      · next hb =>
        cases h
        exact ⟨not_not.mp hw.1, not_not.mp hw.2, ht, fun hbusy => by simpa [hbusy] using hb⟩

/-- A register found at an offset lies at it. -/
theorem Reg.offset_of_ofOffset {off : Nat} {r : Reg} (h : Reg.ofOffset off = some r) : r.offset = off := by
  have := List.find?_some h
  exact of_decide_eq_true this

/-- What the map says of a RAM target: it is the address itself, in a RAM window (R101). -/
theorem Target.ofAddr_ram {a b : Nat} (h : Target.ofAddr a = some (.ram b)) : b = a ∧ ramAddr a = true := by
  unfold Target.ofAddr at h
  split at h
  · cases h
  · split at h
    · cases h
    · split at h
      · cases h
      · split at h
        · next hr => cases h; exact ⟨rfl, hr⟩
        · cases h

/-- The four bytes of an aligned word lie in the same RAM window. -/
theorem ramAddr_word {a k : Nat} (ha : ramAddr a = true) (h4 : a % 4 = 0) (hk : k < 4) : ramAddr (a + k) = true := by
  simp only [ramAddr, inFbWindow, inInWindow, inSlWindow, fbBase, inBase, slBase, Config.fbSize, Config.inSize,
    Config.slCells, Bool.or_eq_true, decide_eq_true_eq] at *
  omega

/-- A word write inside the RAM keeps its canonical form. -/
theorem wf_writeTarget_ram {s : State} {a : Nat} (v : Word) (ha : ramAddr a = true) (h4 : a % 4 = 0)
    (hm : s.mem.wf = true) : (s.writeTarget v (.ram a)).mem.wf = true := by
  refine foldl_keeps (P := fun t : State => t.mem.wf = true) (List.range 4) s (fun t k hk ht => ?_) hm
  exact Memory.wf_store (ramAddr_word ha h4 (List.mem_range.mp hk)) _ ht

/-- A write of a register other than `CMD` leaves the RAM, the pending command and the marks alone. -/
theorem writeReg_mem (s : State) (v : Word) (r : Reg) : (s.writeReg v r).mem = s.mem := by
  cases r <;> rfl

/-- The clamp of `IN_LEN` (R42). -/
theorem clampInLen_le (v : Word) : (clampInLen v).toNat ≤ Config.inSize := by
  simp only [clampInLen, BitVec.toNat_ofNat, Config.inSize]
  omega

end Sys2Proof.Machine
end

