-- ==== Sys2Proof/Laws/Line.lean ====
section
/-! SUPPORT. R341's list, as R341 words it, holds after each DP procedure: of `unpack` wherever a pending carry byte
belongs to a line that wants more samples, of the others from any state that has it. -/

namespace Sys2Proof.Machine

/-- `unpack` ends with R341's list: the carry byte, if any, is taken before the line can be complete (R349). -/
theorem unpackLoop_lineInv : ∀ (n c : Nat) (s : State), turnsLeft c s ≤ n →
    (s.dp.carryV = true → s.dp.cursor.toNat < s.cfg.WC) → (unpackLoop n c s).dp.LineInv s.cfg.WC
  | 0, _, _, h, _ => absurd h (by unfold turnsLeft; omega)
  | n + 1, c, s, h, hi => by
    simp only [unpackLoop]
    split
    · next hw =>
      have hv : s.dp.carryV = false := Bool.eq_false_iff.mpr fun hv => absurd (hi hv) (by omega)
      constructor <;> simp [lineComplete, State.setDp, hv]
    · next hw =>
      split
      · next hv =>
        refine unpackLoop_lineInv n _ (takeCarried c s) ?_ (by simp [takeCarried_carryV])
        have : s.cfg.ZS - (if s.dp.shift = 0 then c + 1 else c) ≤ s.cfg.ZS - c := by split <;> omega
        simp only [turnsLeft, hv, if_true, takeCarried_carryV, takeCarried_cfg] at h ⊢
        simp only [Bool.false_eq_true, if_false]
        omega
      · next hv =>
        have hv : s.dp.carryV = false := by simpa using hv
        split
        · constructor <;> simp [spanBoundary, State.setDp, hv]; omega
        · split
          · constructor <;> simp [spanCarry, State.setDp]; omega
          · refine unpackLoop_lineInv n _ (takeSample c s) ?_ (by simp [takeSample_carryV, hv])
            simp only [turnsLeft, hv, takeSample_carryV, takeSample_cfg, Bool.false_eq_true, if_false] at h ⊢
            split <;> omega

theorem unpack_lineInv (c : Nat) (s : State) (h : s.dp.carryV = true → s.dp.cursor.toNat < s.cfg.WC) :
    (unpack c s).dp.LineInv s.cfg.WC := unpackLoop_lineInv _ c s (turnsLeft_le c s) h

theorem startLine_lineInv (f : Nat) (s : State) (h : 1 ≤ s.cfg.WC) : (startLine f s).dp.LineInv s.cfg.WC := by
  have hc := (dpFrame_beginLine s).cfg
  simp only [startLine]
  split
  · constructor <;> simp [State.setDp, DpRegs.lineStart]; omega
  · have := unpack_lineInv (f + (beginLine s).cfg.dpSkip.toNat)
      ((beginLine s).setDp { (beginLine s).dp with phase := .inPkt }) (by simp [State.setDp, DpRegs.lineStart])
    simpa [State.setDp, hc] using this

/-- `seek` writes only counters and `DP_PKT` before a line starts (R346). -/
theorem seek_lineInv (p₀ : Nat) (s : State) (h : 1 ≤ s.cfg.WC) (hi : s.LineInv) :
    (seek p₀ s).dp.LineInv s.cfg.WC := by
  have header : ∀ f, (readHeader f s).dp.LineInv s.cfg.WC := fun _ => ⟨hi.1, hi.2, hi.3, hi.4, hi.5⟩
  simp only [seek]
  split
  · exact hi
  · split
    · exact ⟨hi.1, hi.2, hi.3, hi.4, hi.5⟩
    · split
      · exact hi
      · split
        · split
          · have := header s.fhp.toNat
            exact ⟨this.1, this.2, this.3, this.4, this.5⟩
          · exact startLine_lineInv s.fhp.toNat (readHeader s.fhp.toNat s) h
        · split
          · exact ⟨hi.1, hi.2, hi.3, hi.4, hi.5⟩
          · exact startLine_lineInv s.fhp.toNat s h

theorem endLine_lineInv (wc pos : Nat) (s : State) : (endLine pos s).dp.LineInv wc := by
  constructor <;> simp [endLine, State.setDp]

theorem dpFrameBody_lineInv {s : State} (h : 1 ≤ s.cfg.WC) (hi : s.LineInv) :
    (dpFrameBody s).dp.LineInv s.cfg.WC := by
  simp only [dpFrameBody]
  split
  · exact ⟨hi.1, hi.2, hi.3, hi.4, hi.5⟩
  · split
    · exact seek_lineInv 0 s h hi
    · have := unpack_lineInv s.dp.span.toNat (s.setDp { s.dp with phase := .inPkt })
        fun hv => hi.span_open (hi.carry_spans hv).1
      split
      · exact endLine_lineInv _ _ _
      · exact this

/-- DP_ACK establishes R341's list from any state: the release drops a pending carry byte (R362). -/
theorem dpAckBody_lineInv {s : State} (h : 1 ≤ s.cfg.WC) : (dpAckBody s).dp.LineInv s.cfg.WC := by
  have released : ({ s.dp with phase := .seek, inc := false, cursor := 0, shift2 := 3, carryV := false } :
      DpRegs).LineInv s.cfg.WC := by constructor <;> simp
  simp only [dpAckBody]
  split
  · exact seek_lineInv s.dp.pos.toNat (s.setDp { s.dp with
      phase := .seek, inc := false, cursor := 0, shift2 := 3, carryV := false }) h released
  · exact released

theorem dpFlushBody_lineInv {s : State} (hi : s.LineInv) : (dpFlushBody s).dp.LineInv s.cfg.WC := by
  simp only [dpFlushBody]
  split
  · exact endLine_lineInv _ _ _
  · exact hi

/-- DP_RESET establishes R341's list from any state (R366). -/
theorem dpResetBody_lineInv (s : State) : (dpResetBody s).dp.LineInv s.cfg.WC := by
  constructor <;> simp [dpResetBody, State.setDp]

end Sys2Proof.Machine
end

