-- ==== Sys2Proof/Laws/PerInstr.lean ====
section
/-! SUPPORT. What holds of each command as syntax, one lemma a constructor: its encoding carries its opcode, and the
encoding's own fields are within the format (R131, R133). -/

namespace Sys2Proof.Laws.EncodedOpcode

/-- The opcode of each command (R133). -/
def opcode : Instr → Nat
  | .nop => 0x00
  | .gfLog _ => 0x01
  | .gfExp _ => 0x02
  | .gfMul _ _ => 0x03
  | .gfDiv _ _ => 0x04
  | .rsSyn _ => 0x08
  | .rsBm => 0x09
  | .rsChien => 0x0A
  | .rsForney => 0x0B
  | .rsCorr _ => 0x0C
  | .rsDecode => 0x0D
  | .drApply => 0x10
  | .syncFind => 0x14
  | .syncSkip _ => 0x15
  | .caduRead _ => 0x18
  | .dpFrame => 0x20
  | .dpAck => 0x21
  | .dpFlush => 0x22
  | .dpReset => 0x23
  | .coreReset => 0x3F

/-- Bits 31 to 26 of the encoding hold the opcode (R131). -/
def Statement (i : Instr) : Prop := opcOf (encode i) = opcode i

/-- A bit of the upper part of a word laid out in two parts. -/
theorem getLsbD_append_add {n m : Nat} (x : BitVec n) (y : BitVec m) (i : Nat) :
    (x ++ y).getLsbD (m + i) = x.getLsbD i := by
  rw [BitVec.getLsbD_append]
  simp

/-- A bit of the lower part of a word laid out in two parts. -/
theorem getLsbD_append_lt {n m i : Nat} (x : BitVec n) (y : BitVec m) (h : i < m) :
    (x ++ y).getLsbD i = y.getLsbD i := by
  rw [BitVec.getLsbD_append]
  simp [h]

theorem opcOf_encA (opc : BitVec 6) (a : Byte) : opcOf (encA opc a) = opc.toNat := by
  unfold opcOf encA
  congr 1
  apply BitVec.eq_of_getLsbD_eq
  intro i hi
  rw [BitVec.getLsbD_extractLsb', show 26 + i = 8 + (8 + (10 + i)) by omega, getLsbD_append_add, getLsbD_append_add,
    getLsbD_append_add]
  simp [hi]

theorem opcOf_encAB (opc : BitVec 6) (a b : Byte) : opcOf (encAB opc a b) = opc.toNat := by
  unfold opcOf encAB
  congr 1
  apply BitVec.eq_of_getLsbD_eq
  intro i hi
  rw [BitVec.getLsbD_extractLsb', show 26 + i = 8 + (8 + (10 + i)) by omega, getLsbD_append_add, getLsbD_append_add,
    getLsbD_append_add]
  simp [hi]

theorem opcOf_encIL (opc : BitVec 6) (il : Nat) : opcOf (encIL opc il) = opc.toNat := by
  unfold opcOf encIL
  congr 1
  apply BitVec.eq_of_getLsbD_eq
  intro i hi
  rw [BitVec.getLsbD_extractLsb', show 26 + i = 3 + (23 + i) by omega, getLsbD_append_add, getLsbD_append_add]
  simp [hi]

theorem opcOf_encNS (opc : BitVec 6) (n : Nat) : opcOf (encNS opc n) = opc.toNat := by
  unfold opcOf encNS
  congr 1
  apply BitVec.eq_of_getLsbD_eq
  intro i hi
  rw [BitVec.getLsbD_extractLsb', show 26 + i = 17 + (9 + i) by omega, getLsbD_append_add, getLsbD_append_add]
  simp [hi]

theorem nop : Statement .nop := rfl
theorem gfLog (a : Byte) : Statement (.gfLog a) := opcOf_encA 0x01 a
theorem gfExp (a : Byte) : Statement (.gfExp a) := opcOf_encA 0x02 a
theorem gfMul (a b : Byte) : Statement (.gfMul a b) := opcOf_encAB 0x03 a b
theorem gfDiv (a b : Byte) : Statement (.gfDiv a b) := opcOf_encAB 0x04 a b
theorem rsSyn (il : Nat) : Statement (.rsSyn il) := opcOf_encIL 0x08 il
theorem rsBm : Statement .rsBm := rfl
theorem rsChien : Statement .rsChien := rfl
theorem rsForney : Statement .rsForney := rfl
theorem rsCorr (il : Nat) : Statement (.rsCorr il) := opcOf_encIL 0x0C il
theorem rsDecode : Statement .rsDecode := rfl
theorem drApply : Statement .drApply := rfl
theorem syncFind : Statement .syncFind := rfl
theorem syncSkip (n : Nat) : Statement (.syncSkip n) := opcOf_encNS 0x15 n
theorem caduRead (lk : ReadMode) : Statement (.caduRead lk) := by cases lk <;> rfl
theorem dpFrame : Statement .dpFrame := rfl
theorem dpAck : Statement .dpAck := rfl
theorem dpFlush : Statement .dpFlush := rfl
theorem dpReset : Statement .dpReset := rfl
theorem coreReset : Statement .coreReset := rfl

end Sys2Proof.Laws.EncodedOpcode
end

