-- ==== Sys2Proof/Tests/Slice0.lean ====
section
/-! SUPPORT. Tests of single steps, and a witness for every statement that has hypotheses. Expected values are those of
spec/95_test_vectors.md, section 2, unless a comment says otherwise. -/

namespace Sys2Proof.Tests

open Sys2Proof.Machine Sys2Proof.Claims

set_option Elab.async false

/-! ### Small states -/

/-- Bytes laid out from an address on. -/
def bytesAt (base : Nat) (bs : List Byte) : Memory := bs.zipIdx.map fun x => (base + x.2, x.1)

/-- The "small configuration": `T=2, I=1, VF=235, S=4`, so `FLEN = 24`. -/
def smallCfg (basis : Bool) : CfgRegs := { CfgRegs.reset with rsCfg := ⟨2, 1, basis, 235, true, true⟩ }

/-- The reset state with the normal basis. -/
def normal : State := { State.reset with cfg := smallCfg false }

/-- The reset state with the dual basis. -/
def dual : State := { State.reset with cfg := smallCfg true }

/-- The largest frame: `S = 8`, `I = 8`, `VF = 0`, `T = 16`. -/
def largestCfg : CfgRegs := { CfgRegs.reset with rsCfg := ⟨16, 8, true, 0, true, true⟩, slen := 8 }

/-- Twenty symbols at positions 0 .. 19 of the small configuration's codeword. -/
def framed (basis : Bool) (symbols : List Byte) : State :=
  { State.reset with cfg := smallCfg basis, mem := bytesAt 0x1000 ([0x1A, 0xCF, 0xFC, 0x1D] ++ symbols) }

/-- The data `01 .. 10` of V-RS-1 with the given parity. -/
def withParity (parity : List Byte) : List Byte := (List.range 16).map (fun k => BitVec.ofNat 8 (k + 1)) ++ parity

/-- The normal-basis codeword of V-RS-1. -/
def valid : State := framed false (withParity [0x93, 0x7A, 0xEA, 0xB2])

/-- Adds an error to the symbol at position `p`. -/
def hit (p : Nat) (v : Byte) (s : State) : State := s.setFb (4 + p) (s.fb (4 + p) ^^^ v)

/-- V-RS-2: position 3 XOR 5A. -/
def oneError : State := hit 3 0x5A valid

/-- V-RS-3: positions 0 and 19. -/
def twoErrors : State := hit 19 0xFF (hit 0 0x01 valid)

/-- V-RS-4: three errors, detected. -/
def threeErrors : State := hit 12 0x33 (hit 7 0x22 (hit 1 0x11 valid))

/-- A state whose stream is the given bytes, read from offset `rd`. -/
def streamed (cfg : CfgRegs) (bs : List Byte) (rd : Nat) : State :=
  { State.reset with cfg := cfg, mem := bytesAt 0x10000 bs,
                     stream := ⟨BitVec.ofNat 17 bs.length, BitVec.ofNat 17 rd, 0, 0, 0⟩ }

/-- The small configuration with decoding and derandomizing off. -/
def plainCfg : CfgRegs := { CfgRegs.reset with rsCfg := ⟨2, 1, false, 235, false, false⟩ }

/-- A stream that holds one whole frame of the small configuration after two bytes. -/
def oneFrame : List Byte := [0x55, 0x55, 0x1A, 0xCF, 0xFC, 0x1D] ++ (List.range 20).map (BitVec.ofNat 8)

/-- The DP configuration of program P3, with the small code configuration opened up so that the zone fits. -/
def lineCfg : CfgRegs :=
  { CfgRegs.reset with dpCfg := ⟨false, true, false⟩, dpZs := 16, dpSkip := 4, dpGeom := ⟨4, 2⟩, vcidMask0 := 0x20,
                       apid := #v[⟨0x123, true⟩, ⟨0, false⟩, ⟨0, false⟩, ⟨0, false⟩, ⟨0, false⟩, ⟨0, false⟩,
                                  ⟨0, false⟩, ⟨0, false⟩] }

/-- A frame of P3 in `FB[4 .. 27]`: the identifier word's second byte, the header pointer, the zone. -/
def dpFrame (vc fhpHigh fhpLow : Byte) (zone : List Byte) : Memory :=
  bytesAt 0x1004 ([0x42, vc, 0, 0, 0, 0, fhpHigh, fhpLow] ++ zone)

/-- Frame A of P3. -/
def frameA : Memory :=
  dpFrame 0xC5 0x00 0x0A [0xEE, 0xEE, 0xEE, 0xEE, 0xEE, 0xEE, 0xEE, 0xEE, 0xEE, 0xEE, 0x01, 0x23, 0xC0, 0x07, 0x00, 0x40]

/-- Frame B of P3. -/
def frameB : Memory :=
  dpFrame 0xC5 0x00 0x0C [0x20, 0x0C, 0x04, 0x01, 0x40, 0x60, 0x1C, 0x08, 0xEE, 0xEE, 0xEE, 0xEE, 0x01, 0x23, 0xC0, 0x08]

/-- A frame of sixteen equal zone bytes. -/
def frameOf (vc fhpHigh fhpLow z : Byte) : Memory := dpFrame vc fhpHigh fhpLow (List.replicate 16 z)

/-- A DP state over a frame: SEEK as after reset. -/
def seeking (m : Memory) : State := { State.reset with cfg := lineCfg, mem := m }

/-- The state of P3 after frame A: SPAN, `CURSOR` 1, shift 4, the carry byte 40. -/
def spanning (m : Memory) : State :=
  { seeking m with dp := { DpRegs.reset with phase := .span, shift2 := 2, carryV := true, carry := 0x40, cursor := 1 } }

/-- The state of P3 after frame B: LINE_DONE, `POS` 8, the line complete. -/
def lineDone (m : Memory) : State :=
  { seeking m with dp := { DpRegs.reset with phase := .lineDone, pos := 8, cursor := 8, lines := 1, carry := 0x40 } }

/-- What a read of the host bus returns. -/
def bus (s : State) (a : Word) : Word := (s.memRead a 4).busData

/-- Every command answers the state `after` names, so that a test can look at one field of it. -/
theorem exec_after (i : Instr) (s : State) : exec i s = .next (after i s) := by
  cases h : firstFailure (checksOf i s) with
  | none => simp [after, exec_passed h]
  | some code => simp [after, exec_failed h]

/-! ### Well-formedness (smoke test) -/

theorem test_wf_refuses_interleave : (Instr.rsSyn 8).wf = false ∧ (Instr.rsCorr 8).wf = false := by decide
theorem test_wf_refuses_skip : (Instr.syncSkip 131072).wf = false := by decide
theorem test_wf_accepts_limits :
    (Instr.rsSyn 7).wf = true ∧ (Instr.rsCorr 7).wf = true ∧ (Instr.syncSkip 131071).wf = true := by decide

/-! ### Decoding: words written out from R132 and R133, `OPC` first -/

theorem test_decode_control :
    decode 0b000000_00000000000000000000000000 = .ok .nop ∧
    decode 0b111111_00000000000000000000000000 = .ok .coreReset := by decide
theorem test_decode_gf :
    decode 0b000001_0000000000_10000000_00000000 = .ok (.gfLog 0x80) ∧
    decode 0b000010_0000000000_11111110_00000000 = .ok (.gfExp 0xFE) ∧
    decode 0b000011_0000000000_00000010_00000011 = .ok (.gfMul 0x02 0x03) ∧
    decode 0b000100_0000000000_00000001_00000010 = .ok (.gfDiv 0x01 0x02) := by decide
theorem test_decode_rs :
    decode 0b001000_00000000000000000000000_010 = .ok (.rsSyn 2) ∧
    decode 0b001001_00000000000000000000000000 = .ok .rsBm ∧
    decode 0b001010_00000000000000000000000000 = .ok .rsChien ∧
    decode 0b001011_00000000000000000000000000 = .ok .rsForney ∧
    decode 0b001100_00000000000000000000000_111 = .ok (.rsCorr 7) ∧
    decode 0b001101_00000000000000000000000000 = .ok .rsDecode := by decide
theorem test_decode_dr_sync_cadu :
    decode 0b010000_00000000000000000000000000 = .ok .drApply ∧
    decode 0b010100_00000000000000000000000000 = .ok .syncFind ∧
    decode 0b010101_000000000_00000001111111100 = .ok (.syncSkip 1020) ∧
    decode 0b010101_000000000_11111111111111111 = .ok (.syncSkip 131071) ∧
    decode 0b011000_0000000000000000000000000_0 = .ok (.caduRead .search) ∧
    decode 0b011000_0000000000000000000000000_1 = .ok (.caduRead .locked) := by decide
theorem test_decode_dp :
    decode 0b100000_00000000000000000000000000 = .ok .dpFrame ∧
    decode 0b100001_00000000000000000000000000 = .ok .dpAck ∧
    decode 0b100010_00000000000000000000000000 = .ok .dpFlush ∧
    decode 0b100011_00000000000000000000000000 = .ok .dpReset := by decide
/-- V-ENC-13 to V-ENC-17. -/
theorem test_decode_reserved_bits :
    decode 0x00000001 = .error .reservedBitSet ∧ decode 0x04000001 = .error .reservedBitSet ∧
    decode 0x04010000 = .error .reservedBitSet ∧ decode 0x20000008 = .error .reservedBitSet ∧
    decode 0x54020000 = .error .reservedBitSet ∧ decode 0x60000002 = .error .reservedBitSet := by decide
/-- V-ENC-18. -/
theorem test_decode_unassigned :
    decode 0x14000000 = .error .unassignedOpcode ∧ decode 0x3C000000 = .error .unassignedOpcode ∧
    decode 0x90000000 = .error .unassignedOpcode ∧ decode 0xF8000000 = .error .unassignedOpcode := by decide
theorem test_decode_table_word :
    decodeTableWord 32 0x540003FC = some (.syncSkip 1020) ∧ decodeTableWord 32 0x14000000 = none := by decide
/-- R138. -/
theorem test_pseudo_instructions :
    encode (gfSqr 0x53) = 0x0C005353 ∧ encode syncLockNext = 0x60000001 := by decide

/-! ### The GF unit (V-GF) -/

theorem test_gf_log : (after (.gfLog 0x80) normal).gfRes = 0x07 ∧ (after (.gfLog 0x01) dual).gfRes = 0xF2 := by
  decide +kernel
theorem test_gf_log_zero :
    (after (.gfLog 0) normal).status.log0 = true ∧ (after (.gfLog 0x7B) dual).status.log0 = false := by
  decide +kernel
theorem test_gf_exp : (after (.gfExp 0xFE) normal).gfRes = 0xC3 ∧ (after (.gfExp 0xFF) dual).gfRes = 0x7B := by
  decide +kernel
theorem test_gf_mul :
    (after (.gfMul 0x53 0xCA) normal).gfRes = 0xA8 ∧ (after (.gfMul 0x53 0xCA) dual).gfRes = 0x4D := by
  decide +kernel
theorem test_gf_div :
    (after (.gfDiv 0x7B 0x53) normal).gfRes = 0x6A ∧ (after (.gfDiv 0x7B 0x53) dual).gfRes = 0x54 := by
  decide +kernel
theorem test_gf_div_zero : (after (.gfDiv 0x53 0x00) normal).status.errcode = .divZero := by decide +kernel
/-- V-GF-6. -/
theorem test_table_windows :
    bus normal 0x0C00 = 0x08040201 ∧ bus normal 0x0D7C = 0x3B39A4F5 ∧ bus normal 0x0E00 = 0xFA99AF7B := by
  decide +kernel

/-! ### The RS unit (V-RS-1 to V-RS-12) -/

theorem test_rs_syn : bus (after (.rsSyn 0) oneError) 0x0800 = 0x3EDFD52E ∧
    bus (after (.rsSyn 0) oneError) 0x070 = 0x00100000 := by decide +kernel
theorem test_rs_syn_dual :
    bus (after (.rsSyn 0) (hit 3 0x5A (framed true (withParity [0xEA, 0x7D, 0x40, 0x96])))) 0x0800 = 0x47C7E84B := by
  decide +kernel

/-- The scratch of V-RS-2 after RS_SYN. -/
def afterSyn : State := after (.rsSyn 0) oneError

/-- The scratch of V-RS-2 after RS_BM. -/
def afterBm : State := after .rsBm afterSyn

/-- The scratch of V-RS-2 after RS_CHIEN. -/
def afterChien : State := after .rsChien afterBm

/-- The scratch of V-RS-2 after RS_FORNEY. -/
def afterForney : State := after .rsForney afterChien

theorem test_rs_bm : bus afterBm 0x0840 = 0x0000D901 ∧ bus afterBm 0x070 = 0x00100001 := by decide +kernel
/-- V-RS-10: cause 1. -/
theorem test_rs_bm_too_many :
    bus (after .rsBm (after (.rsSyn 0) (hit 19 0x07 (hit 12 0x37 (hit 4 0x0E valid))))) 0x070 = 0x00130003 := by
  decide +kernel
theorem test_rs_chien : bus afterChien 0x08C0 = 0x00000010 ∧ bus afterChien 0x070 = 0x00100101 := by decide +kernel
/-- V-RS-4: cause 2. -/
theorem test_rs_chien_no_root :
    bus (after .rsChien (after .rsBm (after (.rsSyn 0) threeErrors))) 0x070 = 0x00150002 := by decide +kernel
theorem test_rs_forney : bus afterForney 0x0880 = 0x0000002E ∧ bus afterForney 0x0900 = 0x0000005A := by decide +kernel
/-- V-RS-11: cause 3, after a host write to `SIGMA`. -/
theorem test_rs_forney_zero_derivative :
    let s := after .rsForney (after .rsChien ((afterBm.memWrite 0x0840 4 0x00010001).memWrite 0x0844 4 0))
    bus s 0x0880 = 0xEBF1D52E ∧ s.rs.stage.cause = 3 ∧ s.mag 0 = 0 := by decide +kernel
theorem test_rs_corr : (after (.rsCorr 0) afterForney).fb 7 = 0x04 := by decide +kernel
/-- V-RS-14. -/
theorem test_rs_corr_range :
    (after (.rsCorr 7) State.reset).status.errcode = .range ∧ (after (.rsSyn 4) State.reset).status.errcode = .range := by
  decide +kernel
theorem test_rs_decode_two_errors :
    bus (after .rsDecode twoErrors) 0x040 = 0x00000002 ∧ bus (after .rsDecode twoErrors) 0x070 = 0x00100202 ∧
    (after .rsDecode twoErrors).fb 4 = 0x01 ∧ (after .rsDecode twoErrors).fb 23 = 0xB2 := by decide +kernel
theorem test_rs_decode_three_errors :
    bus (after .rsDecode threeErrors) 0x040 = 0x00000100 ∧ bus (after .rsDecode threeErrors) 0x044 = 0x00000100 := by
  decide +kernel

/-! ### The DR, SYNC and CADU units -/

/-- V-DR-2. -/
theorem test_dr_apply :
    let s := after .drApply (framed false (List.replicate 20 0))
    bus s 0x1000 = 0x1DFCCF1A ∧ bus s 0x1004 = 0xC00E48FF ∧ bus s 0x1014 = 0xCC7D975A := by decide +kernel
/-- V-DR-4. -/
theorem test_dr_apply_cfg :
    (after .drApply { normal with cfg := { normal.cfg with slen := 0 } }).status.errcode = .cfg := by decide +kernel
/-- V-SYNC-2 and V-SYNC-3. -/
theorem test_sync_find_restarts :
    (after .syncFind (streamed CfgRegs.reset [0x1A, 0x1A, 0xCF, 0xFC, 0x1D] 0)).rdptr = 5 ∧
    (after .syncFind (streamed CfgRegs.reset [0x1A, 0xCF, 0x1A, 0xCF, 0xFC, 0x1D] 0)).rdptr = 6 := by decide +kernel
/-- V-SYNC-4. -/
theorem test_sync_find_none :
    bus (after .syncFind (streamed CfgRegs.reset [0x1A, 0xCF, 0xFC, 0x1C, 0x00] 0)) 0x008 = 0x00000102 := by
  decide +kernel
/-- V-SYNC-10 and V-SYNC-11. -/
theorem test_sync_skip :
    let s : State := { State.reset with stream := ⟨1024, 1000, 0, 0, 0⟩ }
    (after (.syncSkip 24) s).status.eos = false ∧ (after (.syncSkip 24) s).rdptr = 1024 ∧
    (after (.syncSkip 100) s).status.eos = true ∧ (after (.syncSkip 100) s).rdptr = 1024 := by decide +kernel
/-- R312 in search mode, on a stream of the small configuration. -/
theorem test_cadu_read_search :
    let s := after (.caduRead .search) (streamed plainCfg oneFrame 0)
    bus s 0x008 = 0x00000C02 ∧ s.stream.syncOff = 6 ∧ s.rdptr = 26 ∧ s.fb 0 = 0x1A ∧ s.fb 23 = 19 := by decide +kernel
/-- R313: the locked read of the same stream from offset 1 misses the marker. -/
theorem test_cadu_read_locked :
    let s := after (.caduRead .locked) (streamed plainCfg oneFrame 1)
    bus s 0x008 = 0x00001802 ∧ s.stream.syncOff = 5 ∧ s.rdptr = 25 ∧ s.fb 1 = 0x1A ∧ s.fb 4 = 0x1D := by decide +kernel
/-- R314: short reads of the same stream: searched one byte short (V-CADU-6's outcome), locked on `S` bytes and on one. -/
theorem test_cadu_read_short :
    let s := after (.caduRead .search) (streamed plainCfg (oneFrame.take 25) 0)
    let t := after (.caduRead .locked) (streamed plainCfg oneFrame 22)
    let u := after (.caduRead .locked) (streamed plainCfg oneFrame 25)
    (bus s 0x008 = 0x00000602 ∧ s.stream.syncOff = 6 ∧ s.stream.syncCount = 1 ∧ s.rdptr = 25) ∧
    (bus t 0x008 = 0x00001202 ∧ t.stream.syncOff = 26 ∧ t.rdptr = 26) ∧
    (bus u 0x008 = 0x00001202 ∧ u.stream.syncOff = 0 ∧ u.rdptr = 26) := by decide +kernel

/-! ### The DP unit (P3) -/

theorem test_dp_frame_begins :
    let s := after .dpFrame (seeking frameA)
    bus s 0x0E0 = 0x0000401A ∧ bus s 0x0E4 = 1 ∧ bus s 0x0EC = 0x00070123 ∧ bus s 0x20000 = 0x00000001 := by
  decide +kernel
theorem test_dp_frame_resumes :
    let s := after .dpFrame (spanning frameB)
    bus s 0x0E0 = 0x0008400F ∧ bus s 0x20004 = 0x00040003 ∧ bus s 0x20008 = 0x00060005 ∧
    bus s 0x2000C = 0x00080007 := by decide +kernel
theorem test_dp_ack :
    let s := after .dpAck (lineDone frameB)
    bus s 0x0E0 = 0x0008400E ∧ bus s 0x0EC = 0x00080123 ∧ bus s 0x0E8 = 0 ∧ bus s 0x2000C = 0 := by
  decide +kernel
/-- V-DP-15. -/
theorem test_dp_ack_seq : (after .dpAck State.reset).status.errcode = .seq := by decide +kernel
/-- V-DP-5. -/
theorem test_dp_flush :
    let s := after .dpFlush (spanning frameA)
    s.dp.phase = .lineDone ∧ s.dp.inc = true ∧ s.dp.pos = 16 ∧ s.dp.lines = 1 ∧ s.dp.incLines = 1 := by decide +kernel
/-- V-DP-20. -/
theorem test_dp_flush_cfg : (after .dpFlush State.reset).status.errcode = .cfg := by decide +kernel
theorem test_dp_reset :
    bus (after .dpReset (lineDone frameB)) 0x0E0 = 0x0000000C ∧ (after .dpReset (lineDone frameB)).dp.lines = 1 := by
  decide +kernel

/-! ### Control and the bus (V-CTL) -/

/-- V-CTL-1. -/
theorem test_nop :
    bus (after .nop { normal with status := { Status.reset with done := true, err := true, errcode := .illegal } })
      0x008 = 0x00000006 := by decide +kernel
/-- V-CTL-2. -/
theorem test_core_reset :
    let s := after .coreReset { lineDone frameB with pending := 0xFC000000 }
    bus s 0x004 = 0xFC000000 ∧ bus s 0x008 = 0x00000002 ∧ bus s 0x010 = 0x03001410 ∧ bus s 0x100C = 0x01040C20 := by
  decide +kernel
/-- V-CTL-9 and V-CTL-10. -/
theorem test_host_bus_fault :
    (normal.memRead 0x002 4).hostBus = true ∧ (normal.memRead 0x078 4).hostBus = true ∧
    (normal.memWrite 0x104 4 0).hostBus = true ∧ (normal.memRead 0x28000 4).hostBus = true := by decide +kernel
/-- V-CTL-7 and V-CTL-8. -/
theorem test_hazard :
    ((normal.withPending 0).memRead 0x074 4).hazard = true ∧
    ((normal.withPending 0x04000000).memWrite 0x004 4 0).pending = 0x04000000 ∧
    ((normal.withPending 0).memRead 0x008 4).busData = 0x00000001 := by decide +kernel
/-- V-CTL-13. -/
theorem test_in_len_clamp : bus (normal.memWrite 0x02C 4 0x0001FFFF) 0x02C = 0x00010000 := by decide +kernel
/-- The state a host probe builds: GF_MUL as the first command after reset (R500). -/
theorem test_fetch_word :
    step (State.reset.withFetchWord 32 0x0C000203) = exec (.gfMul 0x02 0x03) (State.reset.withPending 0x0C000203) := by
  rfl

/-! ### Witnesses: for every statement with hypotheses, states and operands that meet them together -/

theorem test_witness_encodedCommandDecodesBack :
    (Instr.rsSyn 7).wf = true ∧ (Instr.syncSkip 131071).wf = true ∧ (Instr.gfDiv 0xFF 0xFF).wf = true ∧
    (Instr.caduRead .locked).wf = true := by decide
theorem test_witness_decodedWordEncodesBack : decode 0x5401FFFF = .ok (.syncSkip 131071) := by decide
theorem test_witness_decodeFollowsOpcodeMap :
    (⟨"NOP", 0x00000000, 0xFFFFFFFF⟩ : OpcodeRow) ∈ opcodeMap ∧
    (⟨"CORE_RESET", 0xFC000000, 0xFFFFFFFF⟩ : OpcodeRow) ∈ opcodeMap ∧ decode 0x0400FF00 = .ok (.gfLog 0xFF) := by
  decide
theorem test_witness_wordsFollowFormats : 7 < 8 ∧ 131071 < 131072 := by decide

/-- A pending GF_MUL with a host that waits and a drawn delay of two accesses. -/
def waiting : State := { normal.withPending 0x0C000203 with host := [.wait, .wait, .wait], delay := 2 }

theorem test_witness_stepRunsPendingCommand :
    (normal.withPending 0x0C000203).status.busy = true ∧ (normal.withPending 0x0C000203).host = [] ∧
    decode (normal.withPending 0x0C000203).pending = .ok (.gfMul 2 3) ∧
    { waiting with delay := 0 }.status.busy = true ∧ { waiting with delay := 0 }.host ≠ [] ∧
    (Instr.gfMul 2 3).wf = true := by decide
theorem test_witness_stepPerformsHostAccess :
    ({ normal with host := [.read 0x008 4] } : State).status.busy = false ∧
    ({ waiting with host := [.write 0x004 4 0] } : State).delay ≠ 0 ∧ waiting.host = .wait :: [.wait, .wait] ∧
    normal.status.busy = false ∧ normal.host = [] := by decide
theorem test_witness_illegalWordWritesOnlyCompletion :
    (normal.withPending 0x04000001).status.busy = true ∧ (normal.withPending 0x04000001).host = [] ∧
    (∀ row ∈ opcodeMap, ¬ Matches (normal.withPending 0x04000001).pending row) ∧ opcOf 0x14000000 = 0x05 ∧
    opcOf 0x7FFFFFFF = 0x1F ∧ opcOf 0x90000000 = 0x24 ∧ opcOf 0xFBFFFFFF = 0x3E := by decide
theorem test_witness_issuedCommandCompletes : waiting.status.busy = true ∧ waiting.delay = 2 := by decide
theorem test_witness_errorsArePrecise :
    (after (.gfDiv 0x53 0) normal).status.errcode = .divZero ∧ (after .nop normal).status.errcode = .ok ∧
    (after .coreReset normal).status.errcode = .ok := by decide +kernel
theorem test_witness_checkOrder_codes :
    expectedCode .nop normal = .ok ∧ expectedCode (.gfDiv 1 0) normal = .divZero ∧
    expectedCode (.rsSyn 1) normal = .range ∧ expectedCode (.rsCorr 0) normal = .ok ∧
    expectedCode .dpFrame (lineDone frameA) = .seq ∧ expectedCode .dpAck (seeking frameA) = .seq ∧
    expectedCode .dpFlush normal = .cfg ∧ expectedCode .dpFlush (seeking frameA) = .ok := by decide +kernel
theorem test_witness_checkOrder :
    (normal.withPending 0x04000001).status.busy = true ∧ (normal.withPending 0x04000001).host = [] ∧
    step (normal.withPending 0x04000001) = .next ((normal.withPending 0x04000001).complete .illegal) ∧
    ({ CfgRegs.reset with rsCfg := ⟨0, 4, true, 0, true, true⟩ } : CfgRegs).T = 0 ∧
    ({ CfgRegs.reset with rsCfg := ⟨0, 4, true, 0, true, true⟩ } : CfgRegs).I = 4 :=
  ⟨by decide, by decide, rfl, by decide, by decide⟩

/-- DONE and ERR set, the host about to write the given word to `STATUS`. -/
def acknowledging (v : Word) : State :=
  { normal with status := { Status.reset with done := true, err := true }, host := [.write 0x008 4 v] }

theorem test_witness_doneAndErrClearedOnlyByHost :
    step (acknowledging 2) = .next (hostStep (.write 0x008 4 2) [] (acknowledging 2)) ∧
    (hostStep (.write 0x008 4 2) [] (acknowledging 2)).status.done = false ∧
    step (acknowledging 4) = .next (hostStep (.write 0x008 4 4) [] (acknowledging 4)) ∧
    (hostStep (.write 0x008 4 4) [] (acknowledging 4)).status.err = false :=
  ⟨rfl, by decide, rfl, by decide⟩
theorem test_witness_errClearedByCoreReset :
    ((acknowledging 0).withPending 0xFC000000).status.err = true ∧
    (after .coreReset ((acknowledging 0).withPending 0xFC000000)).status.err = false := by decide +kernel
theorem test_witness_codewordsPartitionTheFrame :
    FrameOk CfgRegs.reset ∧ FrameOk largestCfg ∧ largestCfg.FLEN = 2048 ∧ 7 < largestCfg.I ∧
    254 < 255 - largestCfg.VF ∧ largestCfg.S ≤ 2047 ∧ 2047 < largestCfg.FLEN := by decide +kernel
theorem test_witness_gfTablesFollowTheField : (0x01 : Byte) ≠ 0 ∧ (0xFF : Byte) ≠ 0 ∧ 253 < 254 ∧ 254 < 255 := by decide
theorem test_witness_dualTablesAreTransformed : 254 < 255 := by decide
theorem test_witness_gfRoundTrip : (0x01 : Byte) ≠ 0 ∧ 254 < 255 := by decide
theorem test_witness_gfCommandResults : (0xFF : Byte) ≠ 0 ∧ (0x01 : Byte) ≠ 0 := by decide
theorem test_witness_rsSyn : FrameOk oneError.cfg ∧ 0 < oneError.cfg.I ∧ FrameOk largestCfg ∧ 7 < largestCfg.I := by
  decide +kernel
theorem test_witness_rsBm :
    RsOk afterSyn.cfg ∧ RsOk normal.cfg ∧ (∀ i < 2 * normal.cfg.T, normal.syn i = 0) := by decide +kernel
/-- One error: `L = 1`, with components to check from 1 to 3. Another recurrence, of length 2, is `SIGMA` itself: a
coefficient past its degree is 0. Length 4 has no component left to check. -/
theorem test_witness_rsBmSolvesSyndromeRecurrence :
    RsOk afterSyn.cfg ∧ exec .rsBm afterSyn = .next afterBm ∧ afterBm.rs.stage.l.toNat ≤ 1 ∧
    3 < 2 * afterSyn.cfg.T ∧ afterBm.sigma 0 = gone afterSyn.basis ∧
    (∀ k < 4, 2 ≤ k →
      xorOver (List.range 3) (fun i => gmul afterSyn.basis (afterBm.sigma i) (afterSyn.syn (k - i))) = 0) ∧
    Recurrence afterSyn.basis afterSyn.syn 4 4 (fun _ => gone afterSyn.basis) :=
  ⟨by decide +kernel, exec_after _ _, by decide +kernel, by decide +kernel, by decide +kernel, by decide +kernel,
    fun _ h h' => absurd h' (Nat.not_lt.mpr h)⟩
theorem test_witness_rsChien : RsOk afterBm.cfg ∧ 16 + afterBm.cfg.VF ≤ 254 ∧ locatorAt afterBm 16 = 0 := by
  decide +kernel
theorem test_witness_rsForney :
    RsOk afterChien.cfg ∧ 0 < min afterChien.rs.stage.nloc.toNat 32 ∧ derivativeAt afterChien 16 ≠ 0 := by
  decide +kernel
theorem test_witness_rsCorr :
    FrameOk afterForney.cfg ∧ 0 < afterForney.cfg.I ∧ afterForney.rs.stage.uncorr = false ∧
    (after .rsChien (after .rsBm (after (.rsSyn 0) threeErrors))).rs.stage.uncorr = true := by decide +kernel
theorem test_witness_rsDecode :
    FrameOk twoErrors.cfg ∧ FrameOk threeErrors.cfg ∧ 1 ≤ (7 : Fin 8).val ∧ (0 : Fin 8).val < twoErrors.cfg.I := by
  decide +kernel
/-- The three kinds of interleave: clean, corrected, uncorrectable, by the host's stages. -/
theorem test_witness_rsDecode_kinds :
    ((List.range 1).foldl stagesByHost valid).rs.stage.synNz = false ∧
    ((List.range 1).foldl stagesByHost twoErrors).rs.stage.synNz = true ∧
    ((List.range 1).foldl stagesByHost twoErrors).rs.stage.uncorr = false ∧
    ((List.range 1).foldl stagesByHost threeErrors).rs.stage.uncorr = true := by decide +kernel
theorem test_witness_rsDecodeLeavesUncorrectableCodewords :
    exec .rsDecode threeErrors = .next (after .rsDecode threeErrors) ∧
    (after .rsDecode threeErrors).rs.ils[(0 : Fin 8)].uncorr = true ∧
    exec .rsDecode valid = .next (after .rsDecode valid) ∧
    (after .rsDecode valid).rs.ils[(0 : Fin 8)].clean = true ∧ 19 < 255 - valid.cfg.VF :=
  ⟨exec_after _ _, by decide +kernel, exec_after _ _, by decide +kernel, by decide +kernel⟩
theorem test_witness_validFrame : FrameOk valid.cfg ∧ ∀ il < valid.cfg.I, ValidCodeword valid il := by decide +kernel
/-- One error at position 3, and one at each end of the codeword. -/
theorem test_witness_singleSymbolErrors :
    FrameOk oneError.cfg ∧ valid.cfg = oneError.cfg ∧ (hit 0 0x01 valid).cfg = valid.cfg ∧
    (∀ p' < 255 - oneError.cfg.VF, p' ≠ 3 → symbol oneError 0 p' = symbol valid 0 p') ∧
    (∀ p' < 255 - valid.cfg.VF, p' ≠ 0 → symbol (hit 0 0x01 valid) 0 p' = symbol valid 0 p') ∧
    (∀ p' < 255 - valid.cfg.VF, p' ≠ 19 → symbol (hit 19 0xFF valid) 0 p' = symbol valid 0 p') ∧
    symbol oneError 0 3 ≠ symbol valid 0 3 := by decide +kernel
theorem test_witness_drApply : FrameOk normal.cfg ∧ FrameOk largestCfg := by decide +kernel
theorem test_witness_syncFind :
    SyncOk largestCfg ∧ SyncOk { CfgRegs.reset with slen := 1 } ∧ SyncOk CfgRegs.reset := by decide +kernel

/-- V-SYNC-1's stream. -/
def marked : State := streamed CfgRegs.reset [0, 0, 0, 0, 0, 0, 0, 0x1A, 0xCF, 0xFC, 0x1D, 0x55, 0x55, 0x55, 0x55] 0

/-- V-SYNC-4's stream. -/
def unmarked : State := streamed CfgRegs.reset [0x1A, 0xCF, 0xFC, 0x1C, 0x00] 0

theorem test_witness_defaultMarkerSearch :
    (marked.cfg.slen = 4 ∧ marked.cfg.marker0 = 0x1DFCCF1A) ∧ exec .syncFind marked = .next (after .syncFind marked) ∧
    ((after .syncFind marked).status.found = true ∧ marked.rdptr + 4 ≤ 10 ∧ 10 < (after .syncFind marked).rdptr) ∧
    exec .syncFind unmarked = .next (after .syncFind unmarked) ∧
    ((after .syncFind unmarked).status.found = false ∧ unmarked.rdptr + 4 ≤ 5 ∧ 5 ≤ unmarked.inLen) :=
  ⟨by decide, exec_after _ _, by decide +kernel, exec_after _ _, by decide +kernel⟩
/-- R290's loop returns after 11 bytes of V-SYNC-1's stream, after 5 of V-SYNC-2's and at once on a marker at `RDPTR`, of
the longest length too; on V-SYNC-4's stream it never returns. -/
theorem test_witness_syncFind_found :
    FoundAfter marked 11 ∧ FoundAfter (streamed CfgRegs.reset [0x1A, 0x1A, 0xCF, 0xFC, 0x1D] 0) 5 ∧
    FoundAfter (streamed largestCfg [0x1A, 0xCF, 0xFC, 0x1D, 0, 0, 0, 0] 0) 8 ∧
    (streamed plainCfg oneFrame 2).rdptr + plainCfg.S ≤ (streamed plainCfg oneFrame 2).inLen ∧
    (∀ j < plainCfg.S, (streamed plainCfg oneFrame 2).inByte (2 + j) = markerByte plainCfg j) := by decide +kernel
theorem test_witness_syncFind_none : ∀ n, ¬ FoundAfter unmarked n := by
  intro n h
  have hn : n < 6 := Nat.lt_succ_of_le (Nat.zero_add n ▸ h.1 : n ≤ unmarked.inLen)
  exact (by decide +kernel : ∀ n < 6, ¬ FoundAfter unmarked n) n hn h
theorem test_witness_caduRead :
    (streamed plainCfg oneFrame 2).dp.phase ≠ .lineDone ∧ FrameOk (streamed plainCfg oneFrame 2).cfg ∧
    FrameOk (streamed CfgRegs.reset [] 0).cfg := by decide +kernel
theorem test_witness_caduReadCopiesFrame :
    (streamed plainCfg oneFrame 2).cfg.rsCfg.drEn = false ∧ (streamed plainCfg oneFrame 2).cfg.rsCfg.rsEn = false ∧
    (streamed plainCfg oneFrame 2).rdptr + plainCfg.FLEN = (streamed plainCfg oneFrame 2).inLen ∧
    FoundAfter (streamed plainCfg oneFrame 0) 6 ∧
    6 + (plainCfg.FLEN - plainCfg.S) = (streamed plainCfg oneFrame 0).inLen := by decide +kernel
/-- Short reads: the stream one byte short of a frame, one that ends right after `S` bytes, and one that ends with its
last byte unread. -/
theorem test_witness_caduReadShort :
    (streamed plainCfg oneFrame 3).rdptr < (streamed plainCfg oneFrame 3).inLen ∧
    (streamed plainCfg oneFrame 3).inLen + 1 = (streamed plainCfg oneFrame 3).rdptr + plainCfg.FLEN ∧
    (streamed plainCfg oneFrame 25).rdptr < (streamed plainCfg oneFrame 25).inLen ∧
    (streamed plainCfg oneFrame 22).inLen = (streamed plainCfg oneFrame 22).rdptr + plainCfg.S ∧
    FoundAfter (streamed plainCfg (oneFrame.take 25) 0) 6 ∧
    (streamed plainCfg (oneFrame.take 25) 0).inLen < 6 + (plainCfg.FLEN - plainCfg.S) := by decide +kernel
theorem test_witness_dpFrameWritesOnlyDpAndLine :
    (spanning frameB).dp.phase ≠ .lineDone ∧ DpOk (spanning frameB).cfg ∧ (spanning frameB).dp.phase ≠ .inPkt := by
  decide +kernel
/-- Frame C (another channel), a sentinel pointer, frame E (a pointer past the zone, and the least such), frame G (a
packet not on the list) and frame F (a header cut off by the zone's end). -/
theorem test_witness_dpFrameWithoutPacket :
    (spanning (frameOf 0xC6 0x07 0xFF 0x77)).dp.phase ≠ .lineDone ∧ DpOk lineCfg ∧
    ¬ Matching (spanning (frameOf 0xC6 0x07 0xFF 0x77)) ∧
    Matching (seeking (frameOf 0xC5 0x07 0xFF 0)) ∧ headerPointer (seeking (frameOf 0xC5 0x07 0xFF 0)) = 0x7FF ∧
    Matching (seeking (frameOf 0xC5 0x00 0x10 0)) ∧ headerPointer (seeking (frameOf 0xC5 0x00 0x10 0)) = zs (seeking []) ∧
    headerPointer (seeking (frameOf 0xC5 0x07 0xF0 0)) ≠ 0x7FF ∧
    headerPointer (seeking (frameOf 0xC5 0 0 0x99)) < zs (seeking []) ∧
    ¬ Wanted (seeking (frameOf 0xC5 0 0 0x99)) 0 ∧
    headerPointer (seeking (frameOf 0xC5 0 15 0)) + 1 = zs (seeking []) ∧
    ¬ Wanted (seeking (frameOf 0xC5 0 15 0)) 15 := by decide +kernel

/-- A line of `wc` samples with the given skip, over frame A. -/
def starting (skip : BitVec 16) (wc : BitVec 16) : State :=
  { seeking frameA with cfg := { lineCfg with dpSkip := skip, dpGeom := ⟨wc, 1⟩ } }

/-- The payload two bytes from the zone's end, exactly at its end, and a line that ends in the zone. -/
theorem test_witness_dpFrameStartsLine :
    (starting 4 8).dp.phase = .seek ∧ DpOk (starting 4 8).cfg ∧ DpOk (starting 6 1).cfg ∧ DpOk (starting 4 1).cfg ∧
    Matching (starting 4 8) ∧ headerPointer (starting 4 8) < zs (starting 4 8) ∧
    Wanted (starting 4 8) (headerPointer (starting 4 8)) ∧
    zs (starting 6 1) = headerPointer (starting 6 1) + 6 ∧ samplesIn (16 - 14) 0 = 1 := by decide +kernel
/-- Frame B with the line's last seven samples, with exactly the thirteen the zone holds, and with two more. -/
theorem test_witness_dpFrameResumesLine :
    (spanning frameB).dp.phase = .span ∧ DpOk (spanning frameB).cfg ∧ Matching (spanning frameB) ∧
    (spanning frameB).dp.span.toNat < zs (spanning frameB) ∧ (spanning frameB).dp.cursor.toNat < lineCfg.WC ∧
    samplesIn 17 2 = 13 ∧ DpOk { lineCfg with dpGeom := ⟨14, 1⟩ } ∧
    ({ lineCfg with dpGeom := ⟨14, 1⟩ } : CfgRegs).WC - (spanning frameB).dp.cursor.toNat = 13 ∧
    DpOk { lineCfg with dpGeom := ⟨16, 1⟩ } := by decide +kernel
theorem test_witness_dpFrameEndsLineEarly :
    let past : State := { spanning frameB with dp := { (spanning frameB).dp with span := 16 } }
    let short : State := { spanning frameB with cfg := { lineCfg with dpGeom := ⟨1, 1⟩ } }
    past.dp.phase = .span ∧ DpOk past.cfg ∧ Matching past ∧ zs past = past.dp.span.toNat ∧
    DpOk short.cfg ∧ Matching short ∧ short.dp.span.toNat < zs short ∧ short.cfg.WC = short.dp.cursor.toNat := by
  decide +kernel
/-- No seek (the pointer before `POS`), a pointer past the zone, and a packet at and after `POS`. -/
theorem test_witness_dpAck :
    (lineDone frameB).dp.phase = .lineDone ∧ DpOk (lineDone frameB).cfg ∧ Matching (lineDone frameB) ∧
    headerPointer (lineDone frameB) = 12 ∧ headerPointer (lineDone frameB) < zs (lineDone frameB) ∧
    (lineDone frameB).dp.pos.toNat ≤ 12 ∧ headerPointer (lineDone (frameOf 0xC5 0 8 0)) = 8 ∧
    headerPointer (lineDone (frameOf 0xC5 0 7 0)) < (lineDone (frameOf 0xC5 0 7 0)).dp.pos.toNat ∧
    Matching (lineDone (frameOf 0xC5 0 16 0)) ∧
    zs (lineDone (frameOf 0xC5 0 16 0)) ≤ headerPointer (lineDone (frameOf 0xC5 0 16 0)) ∧
    ¬ Matching (lineDone (frameOf 0xC6 0 16 0)) := by decide +kernel
theorem test_witness_dpFlush :
    DpOk (spanning frameA).cfg ∧ (spanning frameA).dp.phase = .span ∧ (seeking frameA).dp.phase = .seek := by
  decide +kernel
/-- A state in the middle of a line, its command pending, meets the invariant; it is not the reset state. -/
theorem test_witness_stepKeepsInvariant : ((spanning frameB).withPending 0x80000000).Inv :=
  ⟨by decide +kernel, by decide, ⟨by decide, by decide, by decide, by decide, by decide⟩⟩
/-- That state also has R341's list as R341 words it. A host that makes the line longer keeps it; one that makes it one
sample short, the carry byte pending, meets the invariant still but not R341's list. -/
theorem test_witness_lineNotShortened :
    ((spanning frameB).withPending 0x80000000).LineInv ∧
    (spanning frameB).LineNotShortened ((spanning frameB).setCfg { lineCfg with dpGeom := ⟨5, 2⟩ }) ∧
    ¬ (spanning frameB).LineNotShortened ((spanning frameB).setCfg { lineCfg with dpGeom := ⟨1, 1⟩ }) ∧
    ¬ ((spanning frameB).setCfg { lineCfg with dpGeom := ⟨1, 1⟩ }).LineInv :=
  ⟨⟨by decide, by decide, by decide +kernel, by decide, by decide⟩, fun _ _ => by decide +kernel,
    fun h => absurd (h rfl rfl) (by decide +kernel), fun h => absurd (h.span_open rfl) (by decide +kernel)⟩
theorem test_witness_commandsWriteTheirOwnState : exec .nop normal = .next (after .nop normal) :=
  exec_after _ _
theorem test_witness_faultMarksNeverCleared :
    ({ normal with hazard := true, hostBus := true } : State).hazard = true ∧
    step { normal with hazard := true, hostBus := true } = .next { normal with hazard := true, hostBus := true } :=
  ⟨rfl, rfl⟩
/-- Each kind of faulting access, the map's last bytes, and good accesses with and without a command pending. -/
theorem test_witness_faultingAccess :
    ¬ GoodAccess 0x008 2 ∧ ¬ GoodAccess 0x00A 4 ∧ ¬ GoodAccess 0x078 4 ∧ ¬ GoodAccess 0x28000 4 ∧
    GoodAccess 0x074 4 ∧ GoodAccess 0x27FFC 4 ∧ GoodAccess 0x100 4 ∧ (normal.withPending 0).status.busy = true ∧
    (0x074 : Word) ≠ 0x008 ∧ normal.status.busy = false ∧ normal.hazard = false ∧ normal.hostBus = false := by
  decide +kernel
theorem test_witness_readsHaveNoSideEffect : (0x008 : Word) ≠ 0x004 ∧ (0x1000 : Word) ≠ 0x004 := by decide
/-- The first and last words of the windows. -/
theorem test_witness_ramWordReadsBack :
    RamByte 0x1000 ∧ RamByte 0x17FC ∧ RamByte 0x10000 ∧ RamByte 0x1FFFC ∧ RamByte 0x20000 ∧ RamByte 0x27FFC ∧
    0x27FFC % 4 = 0 ∧ 8191 < 8192 ∧ normal.status.busy = false ∧ normal.hazard = false ∧ normal.hostBus = false := by decide
theorem test_witness_scratchAndTableWindows :
    60 % 4 = 0 ∧ 60 < 64 ∧ 252 % 4 = 0 ∧ 252 < 256 ∧ normal.status.busy = false ∧
    scratchTable.map (fun x => (x.1, x.2.1)) = [(0x800, 32), (0x840, 34), (0x880, 32), (0x8C0, 32), (0x900, 32)] := by
  decide
theorem test_witness_registersLieAtTheirOffsets :
    (0x000, Reg.coreId) ∈ registerOffsets ∧ (0x100, Reg.dpApSkip) ∈ registerOffsets ∧
    (0x0DC, Reg.apid 7) ∈ registerOffsets ∧ registerOffsets.length = Reg.all.length ∧ normal.status.busy = false ∧
    normal.hazard = false ∧ normal.hostBus = false := by decide
/-- R500: the read between the issue and the step sees `BUSY = 1`. -/
theorem test_status_read_while_busy :
    (normal.withPending 0x80000000).hazard = false ∧ (normal.withPending 0x80000000).hostBus = false ∧
    bus (normal.withPending 0x80000000) 0x008 = 0x00000001 := by decide +kernel
theorem test_witness_registerWritesReadBack :
    Reg.apid 7 ≠ .cmd ∧ Reg.apid 7 ≠ .status ∧ Reg.apid 7 ≠ .inLen ∧ Reg.coreId ≠ .cmd ∧ Reg.apid 6 ≠ Reg.apid 7 ∧
    Reg.apid 6 ∉ [Reg.frameLen, .vcduId, .vcduVc, .vcduEnc, .mpdu] ∧
    Reg.dpZone ∉ [Reg.frameLen, .vcduId, .vcduVc, .vcduEnc, .mpdu] := by decide
theorem test_witness_registerReads :
    configReads.map (·.1) = [.irqEn, .rsCfg, .rsGen, .syncCfg, .marker0, .marker1, .dpCfg, .dpSkip, .dpGeom, .dpFill,
      .vcidMask0, .vcidMask1] ∧ plainReads.length = 19 := by decide

end Sys2Proof.Tests
end

section
/-! PROOF. The turns that are not the CORE's: one step lemma for a host access and one for idleness. -/

namespace Sys2Proof.Proofs
open Sys2Proof.Machine

/-- When the CORE's step is not next, the step takes the host's next access (R631). -/
theorem step_host {s : State} {op : HostOp} {rest : List HostOp} (ho : s.host = op :: rest)
    (h : s.status.busy = false ∨ s.delay ≠ 0) : step s = .next (hostStep op rest s) := by
  unfold step
  rw [turn_host ho h]

/-- With no command pending and no access left, nobody moves (R113). -/
theorem turn_idle {s : State} (hb : s.status.busy = false) (ho : s.host = []) : s.turn = .idle := by
  simp [State.turn, ho, hb]

/-- An idle step changes nothing (R113). -/
theorem step_idle {s : State} (hb : s.status.busy = false) (ho : s.host = []) : step s = .next s := by
  unfold step
  rw [turn_idle hb ho]

/-- Settles O6, by the three forms of a host access and idleness: `hostStep` takes the access from the list and lowers
the delay before it acts. -/
theorem stepPerformsHostAccess : Obligations.StepPerformsHostAccess := by
  intro s rest hturn
  have access (op : HostOp) (ho : s.host = op :: rest) : step s = .next (hostStep op rest s) := step_host ho hturn
  exact ⟨fun a n => access (.read a n), fun a v n => access (.write a n v), access .wait, step_idle⟩

end Sys2Proof.Proofs
end

section
/-! PROOF. What one step of the machine can do: a command's body between its checks and its completion, a host access,
or idleness; and what each of them leaves alone. -/

namespace Sys2Proof.Proofs
open Sys2Proof.Machine

/-! ### One step (R631) -/

/-- The host moves by the first access of its list. -/
theorem host_of_turn {s : State} {op : HostOp} {rest : List HostOp} (h : s.turn = .host op rest) :
    s.host = op :: rest := by
  cases hs : s.host with
  | nil =>
    simp only [State.turn, hs] at h
    split at h <;> cases h
  | cons op' rest' =>
    simp only [State.turn, hs] at h
    split at h <;> cases h
    rfl

/-- What a turn of the machine can be (R631): the pending command is illegal, fails a check or runs its body, the host
makes its next access, or nothing happens. -/
theorem step_cases {s t : State} (h : step s = .next t) :
    (∃ code, t = s.complete code) ∨
    (∃ i, decode s.pending = .ok i ∧ firstFailure (checksOf i s) = none ∧ t = (bodyOf i s).complete .ok) ∨
    (∃ op rest, s.host = op :: rest ∧ t = hostStep op rest s) ∨ t = s := by
  unfold step at h
  split at h
  · unfold runPending at h
    split at h
    · next i hi =>
      rcases exec_cases h with ⟨code, -, ht⟩ | ⟨hc, ht⟩
      · exact .inl ⟨code, ht⟩
      · exact .inr (.inl ⟨i, hi, hc, ht⟩)
    · exact .inl ⟨_, by simpa using h.symm⟩
  · next op rest hturn =>
    exact .inr (.inr (.inl ⟨op, rest, host_of_turn hturn, by simpa using h.symm⟩))
  · exact .inr (.inr (.inr (by simpa using h.symm)))

/-! ### One host access (R100) -/

/-- `t` differs from `s` at most in the marks and in the model's own record of the host, and no mark is cleared: what
every access does that is not performed as a write. -/
structure BusFrame (s t : State) : Prop where
  rest : t = { s with hazard := t.hazard, hostBus := t.hostBus, host := t.host, delay := t.delay,
                      busData := t.busData, freeCount := t.freeCount }
  hazard : s.hazard = true → t.hazard = true
  hostBus : s.hostBus = true → t.hostBus = true

theorem BusFrame.trans {s t u : State} (h : BusFrame s t) (h' : BusFrame t u) : BusFrame s u where
  rest := by
    have := h'.rest
    rw [h.rest] at this
    exact this
  hazard := h'.hazard ∘ h.hazard
  hostBus := h'.hostBus ∘ h.hostBus

/-- A read sets at most a mark (R109). -/
theorem busFrame_memRead (s : State) (a : Word) (n : Nat) : BusFrame s (s.memRead a n) := by
  rcases memRead_cases s a n with ⟨-, h⟩ | ⟨-, h⟩ | ⟨t, -, h⟩
  · rw [h]; exact ⟨rfl, id, fun _ => rfl⟩
  · rw [h]; exact ⟨rfl, fun _ => rfl, id⟩
  · rw [h]
    split <;> exact ⟨rfl, id, id⟩

/-- Everything a host access can do: a write that the bus performs, or no more than a mark and an answer. -/
theorem hostStep_cases (op : HostOp) (rest : List HostOp) (s : State) :
    (∃ a n v x, op = .write a n v ∧ Target.ofAddr a.toNat = some x ∧ a.toNat % 4 = 0 ∧
      hostStep op rest s = ({ s with host := rest, delay := s.delay - 1 } : State).writeTarget v x) ∨
    BusFrame s (hostStep op rest s) := by
  have hs : BusFrame s { s with host := rest, delay := s.delay - 1 } := ⟨rfl, id, id⟩
  cases op with
  | read a n => exact .inr (hs.trans (busFrame_memRead _ a n))
  | wait =>
    have hr := hs.trans (busFrame_memRead _ 0x008 4)
    simp only [hostStep]
    split
    · exact .inr (hr.trans ⟨rfl, id, id⟩)
    · exact .inr hr
  | write a n v =>
    simp only [hostStep]
    rcases memWrite_cases { s with host := rest, delay := s.delay - 1 } a n v with ⟨-, h⟩ | ⟨-, h⟩ | ⟨x, hx, h⟩
    · rw [h]; exact .inr ⟨rfl, id, fun _ => rfl⟩
    · rw [h]; exact .inr ⟨rfl, fun _ => rfl, id⟩
    · obtain ⟨-, h4, hm, -⟩ := checkAccess_perform hx
      exact .inl ⟨a, n, v, x, rfl, hm, h4, h⟩

/-- A performed write outside the registers writes the scratch or the RAM only. -/
theorem writeTarget_rsMemOnly (s : State) (v : Word) {x : Target} (hx : ∀ r, x ≠ .reg r) :
    s.RsMemOnly (s.writeTarget v x) := by
  cases x with
  | reg r => exact absurd rfl (hx r)
  | scratch x off => exact s.rsMemOnly_setScratch _
  | rom x off => exact .rfl s
  | ram a => exact (foldl_memOnly (fun s _ => s.memOnly_setByte _ _) _ s).rsMemOnly

theorem writeReg_hazard (s : State) (v : Word) (r : Reg) : (s.writeReg v r).hazard = s.hazard := by
  cases r <;> rfl

theorem writeReg_hostBus (s : State) (v : Word) (r : Reg) : (s.writeReg v r).hostBus = s.hostBus := by
  cases r <;> rfl

/-- A performed write sets and clears no mark. -/
theorem writeTarget_marks (s : State) (v : Word) (x : Target) :
    (s.writeTarget v x).hazard = s.hazard ∧ (s.writeTarget v x).hostBus = s.hostBus := by
  by_cases hx : ∃ r, x = .reg r
  · obtain ⟨r, rfl⟩ := hx
    exact ⟨writeReg_hazard s v r, writeReg_hostBus s v r⟩
  · have h := writeTarget_rsMemOnly s v (x := x) fun r hr => hx ⟨r, hr⟩
    exact ⟨by rw [h], by rw [h]⟩

/-! ### What the body of a command leaves alone -/

/-- The units of the CORE a command can belong to, by what their bodies write. -/
inductive CoreUnit where
  | control | gf | rs | buffer | sync | cadu | dp
  deriving DecidableEq

/-- The unit of each command. CORE_RESET writes every unit's registers: it has no frame and stands with NOP. -/
def unitOf : Instr → CoreUnit
  | .nop | .coreReset => .control
  | .gfLog _ | .gfExp _ | .gfMul _ _ | .gfDiv _ _ => .gf
  | .rsSyn _ | .rsBm | .rsChien | .rsForney | .rsDecode => .rs
  | .rsCorr _ | .drApply => .buffer
  | .syncFind | .syncSkip _ => .sync
  | .caduRead _ => .cadu
  | .dpFrame | .dpAck | .dpFlush | .dpReset => .dp

/-- `t` differs from `s` at most in `GF_RES` and `LOG0`. -/
def GfOnly (s t : State) : Prop :=
  t = { s with gfRes := t.gfRes, status := { s.status with log0 := t.status.log0 } }

/-- `t` differs from `s` at most in the stream flags, `RDPTR`, `SYNC_OFF` and `SYNC_COUNT`. -/
def SyncOnly (s t : State) : Prop :=
  t = { s with
    status := { s.status with eos := t.status.eos, short := t.status.short, found := t.status.found,
                              lockMiss := t.status.lockMiss },
    stream := { t.stream with inLen := s.stream.inLen, caduCount := s.stream.caduCount } }

/-- `t` differs from `s` at most in what a unit's commands may write. -/
def UnitFrame : CoreUnit → State → State → Prop
  | .control, s, t => t = s
  | .gf, s, t => GfOnly s t
  | .rs, s, t => s.RsMemOnly t
  | .buffer, s, t => s.MemOnly t
  | .sync, s, t => SyncOnly s t
  | .cadu, s, t => s.ReadOnlyRest t
  | .dp, s, t => s.DpMemOnly t

theorem SyncOnly.mem {s t : State} (h : SyncOnly s t) : t.mem = s.mem := by rw [h]

theorem syncFindBody_syncOnly (s : State) : SyncOnly s (syncFindBody s) := by
  unfold syncFindBody
  split <;> rfl

theorem syncSkipBody_syncOnly (n : Nat) (s : State) : SyncOnly s (syncSkipBody n s) := by
  unfold syncSkipBody
  split <;> rfl

theorem bodyOf_unitFrame {i : Instr} (hi : i ≠ .coreReset) (s : State) : UnitFrame (unitOf i) s (bodyOf i s) := by
  cases i with
  | nop => rfl
  | gfLog a => rfl
  | gfExp a => rfl
  | gfMul a b => rfl
  | gfDiv a b => rfl
  | rsSyn il => exact rsSynBody_frame il s
  | rsBm => exact rsBmBody_frame s
  | rsChien => exact rsChienBody_frame s
  | rsForney => exact rsForneyBody_frame s
  | rsCorr il => exact rsCorrBody_memOnly il s
  | rsDecode => exact rsDecodeBody_frame s
  | drApply => exact drApplyBody_memOnly s
  | syncFind => exact syncFindBody_syncOnly s
  | syncSkip n => exact syncSkipBody_syncOnly n s
  | caduRead lk => exact (caduFrame_caduReadBody lk s).rest
  | dpFrame => exact (dpFrame_dpFrameBody s).rest
  | dpAck => exact (dpFrame_dpAckBody s).rest
  | dpFlush => exact (dpFrame_dpFlushBody s).rest
  | dpReset => rfl
  | coreReset => exact absurd rfl hi

/-- What no unit's commands write: the configuration, `CMD` and `IN_LEN` (R80), and the fault marks (R88). -/
structure HostSide (s t : State) : Prop where
  cfg : t.cfg = s.cfg
  cmd : t.cmd = s.cmd
  inLen : t.stream.inLen = s.stream.inLen
  hazard : t.hazard = s.hazard
  hostBus : t.hostBus = s.hostBus

theorem UnitFrame.hostSide {u : CoreUnit} {s t : State} (h : UnitFrame u s t) : HostSide s t := by
  cases u <;> (unfold UnitFrame at h; rw [h]; exact ⟨rfl, rfl, rfl, rfl, rfl⟩)

/-! ### What the body of a command stores (R80 to R82) -/

/-- The commands that store in `FB`. -/
def storesFb : Instr → Bool
  | .rsCorr _ | .rsDecode | .drApply | .caduRead _ => true
  | _ => false

/-- The commands that store in `SL`. -/
def storesSl : Instr → Bool
  | .dpFrame | .dpAck => true
  | _ => false

/-- Every other command leaves the RAM alone. -/
theorem bodyOf_mem {i : Instr} (hf : storesFb i = false) (hs : storesSl i = false) (s : State) :
    (bodyOf i s).mem = s.mem := by
  cases i with
  | rsSyn il => exact rsSynBody_mem il s
  | rsBm => exact rsBmBody_mem s
  | rsChien => exact rsChienBody_mem s
  | rsForney => exact rsForneyBody_mem s
  | syncFind => exact (syncFindBody_syncOnly s).mem
  | syncSkip n => exact (syncSkipBody_syncOnly n s).mem
  | dpFlush =>
    simp only [bodyOf, dpFlushBody]
    split <;> rfl
  | nop | gfLog _ | gfExp _ | gfMul _ _ | gfDiv _ _ | dpReset | coreReset => rfl
  | rsCorr _ | rsDecode | drApply | caduRead _ => cases hf
  | dpFrame | dpAck => cases hs

/-- A command whose checks pass has the legality predicate its body relies on (R504). -/
theorem frameOk_of_checks {c : CfgRegs} {code : ErrCode} {rest : List (Bool × ErrCode)}
    (h : firstFailure ((!c.frameOk, code) :: rest) = none) : c.frameOk = true := by
  simpa using ((firstFailure_cons_eq_none _ _ _).mp h).1

/-- Where the checks of the DP commands pass, the line is neither empty nor longer than the buffer (R69, R504). -/
theorem line_fits_of_checks {c : CfgRegs} {code : ErrCode} {rest : List (Bool × ErrCode)}
    (h : firstFailure ((!c.dpOk, code) :: rest) = none) : 1 ≤ c.WC ∧ c.WC ≤ Config.slCells := by
  have hc : c.dpOk = true := by simpa using ((firstFailure_cons_eq_none _ _ _).mp h).1
  obtain ⟨-, -, -, -, h₁, h₂⟩ := CfgRegs.dpOk_iff.mp hc
  exact ⟨h₁, h₂⟩

/-- The checks after the first have passed too. -/
theorem firstFailure_tail {x : Bool × ErrCode} {rest : List (Bool × ErrCode)} (h : firstFailure (x :: rest) = none) :
    firstFailure rest = none :=
  ((firstFailure_cons_eq_none _ _ _).mp h).2

/-- A correction stores in the frame only (R248). -/
theorem byteAt_rsCorrBody_outside {s : State} {il a : Nat} (hil : il < s.cfg.I)
    (ha : a < fbBase + s.cfg.S ∨ fbBase + s.cfg.FLEN ≤ a) : (rsCorrBody il s).byteAt a = s.byteAt a := by
  by_cases hu : s.rs.stage.uncorr = true
  · rw [rsCorrBody, if_pos hu]
  · have none_located : ((List.range s.locCount).filter fun k => decide (corrAddr s il k = some a)) = [] := by
      refine List.filter_eq_nil_iff.mpr fun k _ hk => ?_
      have := corrAddr_bounds hil (of_decide_eq_true hk)
      omega
    rw [byteAt_rsCorrBody il s a (by simpa using hu), none_located, xorOver_nil]
    exact BitVec.xor_zero

/-- Where a command whose checks pass can change the RAM: in `FB`, or in `SL`, if it is one that stores there. -/
theorem byteAt_bodyOf_cases {i : Instr} {s : State} (h : firstFailure (checksOf i s) = none) (a : Nat) :
    (bodyOf i s).byteAt a = s.byteAt a ∨ (storesFb i = true ∧ fbBase ≤ a ∧ a < fbBase + Config.fbSize) ∨
      (storesSl i = true ∧ slBase ≤ a) := by
  have inFb (hf : storesFb i = true) (hc : s.cfg.frameOk = true)
      (out : a < fbBase ∨ fbBase + s.cfg.FLEN ≤ a → (bodyOf i s).byteAt a = s.byteAt a) :
      (bodyOf i s).byteAt a = s.byteAt a ∨ (storesFb i = true ∧ fbBase ≤ a ∧ a < fbBase + Config.fbSize) ∨
        (storesSl i = true ∧ slBase ≤ a) := by
    have hF := CfgRegs.FLEN_le hc
    by_cases ha : a < fbBase ∨ fbBase + s.cfg.FLEN ≤ a
    · exact .inl (out ha)
    · exact .inr (.inl ⟨hf, by omega, by omega⟩)
  have inSl (hs : storesSl i = true) (hd : DpFrame s (bodyOf i s)) :
      (bodyOf i s).byteAt a = s.byteAt a ∨ (storesFb i = true ∧ fbBase ≤ a ∧ a < fbBase + Config.fbSize) ∨
        (storesSl i = true ∧ slBase ≤ a) := by
    by_cases ha : a < slBase
    · exact .inl (hd.outside a (.inl ha))
    · exact .inr (.inr ⟨hs, by omega⟩)
  cases i with
  | rsCorr il =>
    have hil := ((firstFailure_cons_eq_none _ _ _).mp (firstFailure_tail h)).1
    exact inFb rfl (frameOk_of_checks h) fun ha => byteAt_rsCorrBody_outside (by simpa using hil) (by omega)
  | rsDecode => exact inFb rfl (frameOk_of_checks h) ((caduFrame_rsDecodeBody s).outside a)
  | drApply => exact inFb rfl (frameOk_of_checks h) ((caduFrame_drApplyBody s).outside a)
  | caduRead lk => exact inFb rfl (frameOk_of_checks (firstFailure_tail h)) ((caduFrame_caduReadBody lk s).outside a)
  | dpFrame => exact inSl rfl (dpFrame_dpFrameBody s)
  | dpAck => exact inSl rfl (dpFrame_dpAckBody s)
  | _ => exact .inl (State.byteAt_congr (bodyOf_mem rfl rfl s) a)

/-- The RAM keeps its canonical form through every command: every store is bounded by the checks (R69). -/
theorem bodyOf_wf {i : Instr} {s : State} (h : firstFailure (checksOf i s) = none) (hm : s.mem.wf = true) :
    (bodyOf i s).mem.wf = true := by
  cases i with
  | rsCorr il =>
    have hil := ((firstFailure_cons_eq_none _ _ _).mp (firstFailure_tail h)).1
    exact wf_rsCorrBody (frameOk_of_checks h) (by simpa using hil) hm
  | rsDecode => exact wf_rsDecodeBody (frameOk_of_checks h) hm
  | drApply => exact wf_drApplyBody (frameOk_of_checks h) hm
  | caduRead lk => exact (caduFrame_caduReadBody lk s).wf (frameOk_of_checks (firstFailure_tail h)) hm
  | dpFrame => exact (dpFrame_dpFrameBody s).wf (line_fits_of_checks (firstFailure_tail h)).2 hm
  | dpAck => exact (dpFrame_dpAckBody s).wf (line_fits_of_checks (firstFailure_tail h)).2 hm
  | _ => exact (congrArg Memory.wf (bodyOf_mem rfl rfl s)).trans hm

end Sys2Proof.Proofs
end

section
/-! PROOF. The invariant (R42, R64, R341): which updates of the DP registers keep it, what each command's body does to
it, and the host's writes. -/

namespace Sys2Proof.Proofs
open Sys2Proof.Machine

/-! ### The DP registers both invariants speak of -/

/-- The registers that R341 speaks of have the same values: a counter, `DP_PKT` or `POS` may differ. -/
structure SameLine (d e : DpRegs) : Prop where
  phase : e.phase = d.phase
  shift2 : e.shift2 = d.shift2
  carryV : e.carryV = d.carryV
  inc : e.inc = d.inc
  cursor : e.cursor = d.cursor
  span : e.span = d.span

theorem SameLine.rfl (d : DpRegs) : SameLine d d := ⟨Eq.refl _, Eq.refl _, Eq.refl _, Eq.refl _, Eq.refl _, Eq.refl _⟩

theorem SameLine.of_eq {d e : DpRegs} (h : e = d) : SameLine d e := h ▸ .rfl e

theorem SameLine.inv {d e : DpRegs} (h : SameLine d e) (hd : d.Inv) : e.Inv := by
  obtain ⟨hphase, hshift, hcarry, hinc, hcursor, hspan⟩ := h
  obtain ⟨h₁, h₂, h₃, h₄, h₅⟩ := hd
  constructor <;> simpa [hphase, hshift, hcarry, hinc, hcursor, hspan]

/-- R341's list with the registers unchanged, for a line that is not shorter while it spans. -/
theorem SameLine.lineInv {d e : DpRegs} {wc wc' : Nat} (h : SameLine d e) (hw : d.phase = .span → wc ≤ wc')
    (hd : d.LineInv wc) : e.LineInv wc' := by
  obtain ⟨hphase, -, hcarry, -, hcursor, hspan⟩ := h
  obtain ⟨h₁, h₂, h₃, h₄, h₅⟩ := hd
  constructor <;> simp only [hphase, hcarry, hcursor, hspan]
  · exact h₁
  · exact h₂
  · exact fun hp => Nat.lt_of_lt_of_le (h₃ hp) (hw hp)
  · exact h₄
  · exact h₅

/-! ### The DP procedures keep the DP unit's invariant -/

/-- The unpacking loop, entered with no incomplete line pending, ends with the invariant: the cursor passes a sample
only below `WC` (R345, R349). -/
theorem unpackLoop_inv : ∀ (n c : Nat) (s : State), turnsLeft c s ≤ n → s.cfg.WC ≤ Config.slCells →
    s.dp.inc = false → s.dp.cursor.toNat ≤ Config.slCells → (unpackLoop n c s).dp.Inv
  | 0, _, _, h, _, _, _ => absurd h (by unfold turnsLeft; omega)
  | n + 1, c, s, h, hw, hi, hc => by
    have advance (hlt : s.dp.cursor.toNat < s.cfg.WC) : (s.dp.cursor + 1).toNat ≤ Config.slCells := by
      simp only [Config.slCells, BitVec.toNat_add] at *
      exact (Nat.mod_le _ _).trans (by simp; omega)
    simp only [unpackLoop]
    split
    · constructor <;> simp [lineComplete, hc]
    · next hlt =>
      split
      · next hv =>
        refine unpackLoop_inv n _ (takeCarried c s) ?_ hw hi (advance (by omega))
        have : s.cfg.ZS - (if s.dp.shift = 0 then c + 1 else c) ≤ s.cfg.ZS - c := by split <;> omega
        simp only [turnsLeft, hv, if_true, takeCarried_carryV, takeCarried_cfg] at h ⊢
        simp only [Bool.false_eq_true, if_false]
        omega
      · next hv =>
        have hv : s.dp.carryV = false := by simpa using hv
        split
        · constructor <;> simp [spanBoundary, hv, hi, hc]
        · split
          · constructor <;> simp [spanCarry, hi, hc]
          · refine unpackLoop_inv n _ (takeSample c s) ?_ hw hi (advance (by omega))
            simp only [turnsLeft, hv, takeSample_carryV, takeSample_cfg, Bool.false_eq_true, if_false] at h ⊢
            split <;> omega

theorem unpack_inv (c : Nat) {s : State} (hw : s.cfg.WC ≤ Config.slCells) (hi : s.dp.inc = false)
    (hc : s.dp.cursor.toNat ≤ Config.slCells) : (unpack c s).dp.Inv :=
  unpackLoop_inv _ c s (turnsLeft_le c s) hw hi hc

theorem startLine_inv (f : Nat) {s : State} (hw : s.cfg.WC ≤ Config.slCells) : (startLine f s).dp.Inv := by
  simp only [startLine]
  split
  · constructor <;> simp [DpRegs.lineStart]
  · refine unpack_inv _ (s := (beginLine s).setDp _) ?_ ?_ ?_
    · simpa [(dpFrame_beginLine s).cfg] using hw
    · simp [DpRegs.lineStart]
    · simp [DpRegs.lineStart]

theorem seek_inv (p₀ : Nat) {s : State} (hw : s.cfg.WC ≤ Config.slCells) (hi : s.dp.Inv) : (seek p₀ s).dp.Inv := by
  have counted {d : DpRegs} (h : SameLine s.dp d) : d.Inv := h.inv hi
  simp only [seek]
  split
  · exact hi
  · split
    · exact counted ⟨rfl, rfl, rfl, rfl, rfl, rfl⟩
    · split
      · exact hi
      · split
        · split
          · exact counted ⟨rfl, rfl, rfl, rfl, rfl, rfl⟩
          · exact startLine_inv _ (s := readHeader _ s) hw
        · split
          · exact counted ⟨rfl, rfl, rfl, rfl, rfl, rfl⟩
          · exact startLine_inv _ hw

theorem endLine_inv (pos : Nat) {s : State} (hc : s.dp.cursor.toNat ≤ Config.slCells) : (endLine pos s).dp.Inv := by
  constructor <;> simp [endLine, hc]

/-- DP_FRAME outside LINE_DONE: a line that spans is not yet incomplete (R341, R360). -/
theorem dpFrameBody_inv {s : State} (hw : s.cfg.WC ≤ Config.slCells) (hp : s.dp.phase ≠ .lineDone) (hi : s.dp.Inv) :
    (dpFrameBody s).dp.Inv := by
  simp only [dpFrameBody]
  split
  · exact SameLine.inv (d := s.dp) ⟨rfl, rfl, rfl, rfl, rfl, rfl⟩ hi
  · split
    · exact seek_inv 0 hw hi
    · split
      · exact endLine_inv _ (s := countProto s) hi.cursor_bound
      · have hinc : s.dp.inc = false := Bool.eq_false_iff.mpr fun h => hp (hi.inc_held h)
        exact unpack_inv _ (s := s.setDp _) hw hinc hi.cursor_bound

/-- DP_ACK starts from an empty line, so it establishes the invariant (R362). -/
theorem dpAckBody_inv {s : State} (hw : s.cfg.WC ≤ Config.slCells) : (dpAckBody s).dp.Inv := by
  have released : ({ s.dp with phase := .seek, inc := false, cursor := 0, shift2 := 3, carryV := false } :
      DpRegs).Inv := by constructor <;> simp
  simp only [dpAckBody]
  split
  · exact seek_inv _ (s := s.setDp _) hw released
  · exact released

theorem dpFlushBody_inv {s : State} (hi : s.dp.Inv) : (dpFlushBody s).dp.Inv := by
  simp only [dpFlushBody]
  split
  · exact endLine_inv _ hi.cursor_bound
  · exact hi

theorem dpResetBody_inv (s : State) : (dpResetBody s).dp.Inv := by
  constructor <;> simp [dpResetBody]

/-- The registers of a fresh machine (R600): nothing is held, nothing is pending. -/
theorem reset_dp_inv : DpRegs.reset.Inv := by constructor <;> decide

theorem reset_dp_lineInv (wc : Nat) : DpRegs.reset.LineInv wc := by constructor <;> simp [DpRegs.reset]

/-! ### Every command keeps the invariants -/

/-- Only the DP commands and CORE_RESET write the DP registers. -/
theorem bodyOf_dp {i : Instr} (hu : unitOf i ≠ .dp) (hi : i ≠ .coreReset) (s : State) : (bodyOf i s).dp = s.dp := by
  have h := bodyOf_unitFrame hi s
  cases hui : unitOf i with
  | dp => exact absurd hui hu
  | _ => rw [hui] at h; unfold UnitFrame at h; rw [h]

/-- The DP unit's invariant after a command whose checks pass. -/
theorem bodyOf_dp_inv {i : Instr} {s : State} (h : firstFailure (checksOf i s) = none) (hi : s.dp.Inv) :
    (bodyOf i s).dp.Inv := by
  cases i with
  | dpFrame =>
    have hp : s.dp.phase ≠ .lineDone := by simpa using ((firstFailure_cons_eq_none _ _ _).mp h).1
    exact dpFrameBody_inv (line_fits_of_checks (firstFailure_tail h)).2 hp hi
  | dpAck => exact dpAckBody_inv (line_fits_of_checks (firstFailure_tail h)).2
  | dpFlush => exact dpFlushBody_inv hi
  | dpReset => exact dpResetBody_inv s
  | coreReset => exact reset_dp_inv
  | _ => exact SameLine.inv (.of_eq (bodyOf_dp (by simp [unitOf]) (by simp) s)) hi

theorem bodyOf_inLen_le {i : Instr} {s : State} (hs : s.stream.inLen.toNat ≤ Config.inSize) :
    (bodyOf i s).stream.inLen.toNat ≤ Config.inSize := by
  by_cases hi : i = .coreReset
  · subst hi; exact Nat.zero_le _
  · rw [(bodyOf_unitFrame hi s).hostSide.inLen]; exact hs

/-- R341's list after a command whose checks pass. -/
theorem bodyOf_lineInv {i : Instr} {s : State} (h : firstFailure (checksOf i s) = none) (hi : s.LineInv) :
    (bodyOf i s).LineInv := by
  have sameCfg (hi : i ≠ .coreReset) : (bodyOf i s).cfg = s.cfg := (bodyOf_unitFrame hi s).hostSide.cfg
  unfold State.LineInv
  cases i with
  | dpFrame => rw [sameCfg (by simp)]; exact dpFrameBody_lineInv (line_fits_of_checks (firstFailure_tail h)).1 hi
  | dpAck => rw [sameCfg (by simp)]; exact dpAckBody_lineInv (line_fits_of_checks (firstFailure_tail h)).1
  | dpFlush => rw [sameCfg (by simp)]; exact dpFlushBody_lineInv hi
  | dpReset => exact dpResetBody_lineInv s
  | coreReset => exact reset_dp_lineInv _
  | _ => rw [sameCfg (by simp), bodyOf_dp (by simp [unitOf]) (by simp)]; exact hi

/-! ### Every host access keeps the invariants -/

/-- A register write reaches no DP register but the counters (R67). -/
theorem writeReg_sameLine (s : State) (v : Word) (r : Reg) : SameLine s.dp (s.writeReg v r).dp := by
  cases r <;> exact ⟨rfl, rfl, rfl, rfl, rfl, rfl⟩

theorem writeTarget_sameLine (s : State) (v : Word) (x : Target) : SameLine s.dp (s.writeTarget v x).dp := by
  cases x with
  | reg r => exact writeReg_sameLine s v r
  | scratch x off => exact .rfl s.dp
  | rom x off => exact .rfl s.dp
  | ram a => exact .of_eq (writeTarget_rsMemOnly s v (x := .ram a) (by simp)).dp

/-- The host's write of `IN_LEN` is clamped, and no other write reaches it (R42). -/
theorem writeReg_inLen_le {s : State} (v : Word) (r : Reg) (hs : s.stream.inLen.toNat ≤ Config.inSize) :
    (s.writeReg v r).stream.inLen.toNat ≤ Config.inSize := by
  cases r with
  | inLen => exact clampInLen_le v
  | _ => exact hs

theorem writeTarget_inv {s : State} (v : Word) {x : Target} {a : Nat} (hx : Target.ofAddr a = some x)
    (h4 : a % 4 = 0) (hi : s.Inv) : (s.writeTarget v x).Inv := by
  obtain ⟨hm, hl, hd⟩ := hi
  refine ⟨?_, ?_, (writeTarget_sameLine s v x).inv hd⟩
  · cases x with
    | reg r => exact (writeReg_mem s v r).symm ▸ hm
    | scratch x off => exact hm
    | rom x off => exact hm
    | ram b =>
      obtain ⟨rfl, hr⟩ := Target.ofAddr_ram hx
      exact wf_writeTarget_ram v hr h4 hm
  · cases x with
    | reg r => exact writeReg_inLen_le v r hl
    | scratch x off => exact hl
    | rom x off => exact hl
    | ram b => rw [(writeTarget_rsMemOnly s v (x := .ram b) (by simp)).stream]; exact hl

theorem hostStep_sameLine (op : HostOp) (rest : List HostOp) (s : State) : SameLine s.dp (hostStep op rest s).dp := by
  rcases hostStep_cases op rest s with ⟨a, n, v, x, -, -, -, h⟩ | h
  · rw [h]; exact writeTarget_sameLine { s with host := rest, delay := s.delay - 1 } v x
  · exact .of_eq (by rw [h.rest])

theorem hostStep_inv (op : HostOp) (rest : List HostOp) {s : State} (hi : s.Inv) : (hostStep op rest s).Inv := by
  rcases hostStep_cases op rest s with ⟨a, n, v, x, -, hx, h4, h⟩ | h
  · rw [h]; exact writeTarget_inv v hx h4 ⟨hi.mem_wf, hi.inLen_le, hi.dp_inv⟩
  · rw [h.rest]; exact ⟨hi.mem_wf, hi.inLen_le, hi.dp_inv⟩

/-! ### Every step -/

/-- Settles O49, by the four kinds of step: a command that fails writes the completion only, one that runs keeps the
invariants by its body, a host access reaches no register of R341's list, and idleness changes nothing. -/
theorem stepKeepsInvariant : Obligations.StepKeepsInvariant := by
  intro s t hs hstep
  rcases step_cases hstep with ⟨code, rfl⟩ | ⟨i, -, hc, rfl⟩ | ⟨op, rest, -, rfl⟩ | rfl
  · exact ⟨⟨hs.mem_wf, hs.inLen_le, hs.dp_inv⟩, fun hl _ => hl⟩
  · exact ⟨⟨bodyOf_wf hc hs.mem_wf, bodyOf_inLen_le hs.inLen_le, bodyOf_dp_inv hc hs.dp_inv⟩,
      fun hl _ => bodyOf_lineInv hc hl⟩
  · have same := hostStep_sameLine op rest s
    exact ⟨hostStep_inv op rest hs, fun hl hw => same.lineInv (fun hp => hw hp (same.phase.trans hp)) hl⟩
  · exact ⟨hs, fun hl _ => hl⟩

/-- Settles O51, by the same four kinds of step: only an access that faults writes a mark, and it sets it. -/
theorem faultMarksNeverCleared : Obligations.FaultMarksNeverCleared := by
  intro s t hstep
  rcases step_cases hstep with ⟨code, rfl⟩ | ⟨i, -, -, rfl⟩ | ⟨op, rest, -, rfl⟩ | rfl
  · exact ⟨id, id⟩
  · by_cases hi : i = .coreReset
    · subst hi; exact ⟨id, id⟩
    · have frame := (bodyOf_unitFrame hi s).hostSide
      exact ⟨frame.hazard.trans, frame.hostBus.trans⟩
  · rcases hostStep_cases op rest s with ⟨a, n, v, x, -, -, -, h⟩ | h
    · have marks := writeTarget_marks { s with host := rest, delay := s.delay - 1 } v x
      rw [h]
      exact ⟨marks.1.trans, marks.2.trans⟩
    · exact ⟨h.hazard, h.hostBus⟩
  · exact ⟨id, id⟩

end Sys2Proof.Proofs
end

section
/-! PROOF. Each command writes only its own unit's state (R34, R80, R315): what a unit's frame keeps, and which commands
belong to which unit. -/

namespace Sys2Proof.Proofs
open Sys2Proof.Machine

/-! ### What the frame of a unit keeps -/

section
variable {u : CoreUnit} {s t : State}

theorem UnitFrame.stream_flags (h : UnitFrame u s t) (hs : u ≠ .sync) (hc : u ≠ .cadu) :
    t.stream = s.stream ∧ t.status.eos = s.status.eos ∧ t.status.short = s.status.short ∧
      t.status.found = s.status.found ∧ t.status.lockMiss = s.status.lockMiss := by
  cases u with
  | sync => exact absurd rfl hs
  | cadu => exact absurd rfl hc
  | _ => unfold UnitFrame at h; rw [h]; exact ⟨rfl, rfl, rfl, rfl, rfl⟩

theorem UnitFrame.frameValid_caduCount (h : UnitFrame u s t) (hc : u ≠ .cadu) :
    t.status.frameValid = s.status.frameValid ∧ t.stream.caduCount = s.stream.caduCount := by
  cases u with
  | cadu => exact absurd rfl hc
  | _ => unfold UnitFrame at h; rw [h]; exact ⟨rfl, rfl⟩

theorem UnitFrame.log0_gfRes (h : UnitFrame u s t) (hg : u ≠ .gf) :
    t.status.log0 = s.status.log0 ∧ t.gfRes = s.gfRes := by
  cases u with
  | gf => exact absurd rfl hg
  | _ => unfold UnitFrame at h; rw [h]; exact ⟨rfl, rfl⟩

theorem UnitFrame.rs (h : UnitFrame u s t) (hr : u ≠ .rs) (hc : u ≠ .cadu) : t.rs = s.rs := by
  cases u with
  | rs => exact absurd rfl hr
  | cadu => exact absurd rfl hc
  | _ => unfold UnitFrame at h; rw [h]

end

/-! ### The commands of each unit -/

theorem unitOf_eq_gf {i : Instr} :
    unitOf i = .gf ↔ (∃ a, i = .gfLog a ∨ i = .gfExp a) ∨ ∃ a b, i = .gfMul a b ∨ i = .gfDiv a b := by
  cases i <;> simp [unitOf]

theorem unitOf_eq_rs {i : Instr} :
    unitOf i = .rs ↔ i ∈ [.rsBm, .rsChien, .rsForney, .rsDecode] ∨ ∃ il, i = .rsSyn il := by
  cases i <;> simp [unitOf]

theorem unitOf_eq_sync {i : Instr} : unitOf i = .sync ↔ i = .syncFind ∨ ∃ n, i = .syncSkip n := by
  cases i <;> simp [unitOf]

theorem unitOf_eq_cadu {i : Instr} : unitOf i = .cadu ↔ i ∈ [.caduRead .search, .caduRead .locked] := by
  cases i with
  | caduRead lk => cases lk <;> simp [unitOf]
  | _ => simp [unitOf]

theorem unitOf_eq_dp {i : Instr} : unitOf i = .dp ↔ i ∈ [.dpFrame, .dpAck, .dpFlush, .dpReset] := by
  cases i <;> simp [unitOf]

theorem storesFb_iff {i : Instr} : storesFb i = true ↔
    i ∈ [.rsDecode, .drApply, .caduRead .search, .caduRead .locked] ∨ ∃ il, i = .rsCorr il := by
  cases i with
  | caduRead lk => cases lk <;> simp [storesFb]
  | _ => simp [storesFb]

theorem storesSl_iff {i : Instr} : storesSl i = true ↔ i ∈ [.dpFrame, .dpAck] := by
  cases i <;> simp [storesSl]

/-- `LOG0` is GF_LOG's own among the GF commands (R210). -/
theorem bodyOf_log0 {i : Instr} (hl : ∀ a, i ≠ .gfLog a) (hi : i ≠ .coreReset) (s : State) :
    (bodyOf i s).status.log0 = s.status.log0 := by
  by_cases hg : unitOf i = .gf
  · rcases unitOf_eq_gf.mp hg with ⟨a, rfl | rfl⟩ | ⟨a, b, rfl | rfl⟩
    · exact absurd rfl (hl a)
    all_goals rfl
  · exact ((bodyOf_unitFrame hi s).log0_gfRes hg).1

/-- Settles O50: a failing check writes the completion only, and a body that runs is within its unit's frame. -/
theorem commandsWriteTheirOwnState : Obligations.CommandsWriteTheirOwnState := by
  intro i s t h
  rcases exec_cases h with ⟨code, -, rfl⟩ | ⟨hc, rfl⟩
  · exact ⟨fun _ => ⟨rfl, rfl, rfl⟩, fun _ _ _ => rfl, fun _ _ => ⟨rfl, rfl, rfl, rfl, rfl⟩, fun _ => ⟨rfl, rfl⟩,
      fun _ _ => rfl, fun _ _ _ => rfl, fun _ _ => rfl, fun _ => rfl, fun _ _ _ => rfl, fun _ _ _ _ => rfl⟩
  have frame (hi : i ≠ .coreReset) := bodyOf_unitFrame hi s
  have ram := byteAt_bodyOf_cases hc
  simp only [fbBase, slBase, Config.fbSize] at ram
  refine ⟨fun hi => ?cfg, fun a ha ha' => ?inBytes, fun hi hn => ?stream, fun hi => ?cadu, fun hl hi => ?log0,
    fun hg hg' hi => ?gfRes, fun hi hn => ?rs, fun hi => ?dp, fun hi a ha => ?sl, fun hi hn a ha => ?fb⟩
  case cfg =>
    obtain ⟨hcfg, hcmd, hlen, -, -⟩ := (frame hi).hostSide
    exact ⟨hcfg, hcmd, hlen⟩
  case inBytes => exact (ram a).resolve_right (by omega)
  case stream =>
    simp only [List.mem_cons, List.not_mem_nil, or_false, not_or] at hi
    refine (frame hi.2.2.2).stream_flags ?_ ?_
    · exact fun hu => (unitOf_eq_sync.mp hu).elim hi.1 fun ⟨n, hin⟩ => hn n hin
    · exact fun hu => by simpa [hi] using unitOf_eq_cadu.mp hu
  case cadu =>
    simp only [List.mem_cons, List.not_mem_nil, or_false, not_or] at hi
    exact (frame hi.2.2).frameValid_caduCount fun hu => by simpa [hi] using unitOf_eq_cadu.mp hu
  case log0 => exact bodyOf_log0 hl hi s
  case gfRes =>
    refine ((frame hi).log0_gfRes fun hu => ?_).2
    rcases unitOf_eq_gf.mp hu with ⟨a, h'⟩ | ⟨a, b, h'⟩
    · exact h'.elim (hg a).1 (hg a).2
    · exact h'.elim (hg' a b).1 (hg' a b).2
  case rs =>
    simp only [List.mem_cons, List.not_mem_nil, or_false, not_or] at hi
    obtain ⟨hbm, hchien, hforney, hdecode, hsearch, hlocked, hreset⟩ := hi
    refine (frame hreset).rs ?_ ?_
    · exact fun hu => (unitOf_eq_rs.mp hu).elim (by simp [*]) fun ⟨il, hil⟩ => hn il hil
    · exact fun hu => by simpa [hsearch, hlocked] using unitOf_eq_cadu.mp hu
  case dp =>
    simp only [List.mem_cons, List.not_mem_nil, or_false, not_or] at hi
    obtain ⟨hframe, hack, hflush, hreset, hcore⟩ := hi
    exact bodyOf_dp (fun hu => by simpa [*] using unitOf_eq_dp.mp hu) hcore s
  case sl =>
    rcases ram a with h' | h' | h'
    · exact h'
    · omega
    · exact absurd (storesSl_iff.mp h'.1) hi
  case fb =>
    rcases ram a with h' | h' | h'
    · exact h'
    · exact ((storesFb_iff.mp h'.1).elim hi fun ⟨il, hil⟩ => hn il hil).elim
    · omega

end Sys2Proof.Proofs
end

section
/-! PROOF. The frame's codewords (R69, R230), by division with remainder. -/

namespace Sys2Proof.Proofs
open Sys2Proof.Machine Sys2Proof.Claims

/-- The claims' `CFG_FRAME_OK` is the model's (R69). -/
theorem frameOk_of_claim {c : CfgRegs} (h : FrameOk c) : c.frameOk = true := by
  obtain ⟨⟨⟨hT, hT'⟩, ⟨hI, hI'⟩, hK, hP⟩, hS⟩ := h
  exact CfgRegs.frameOk_iff.mpr ⟨CfgRegs.rsOk_iff.mpr ⟨hT, hT', hI, hI', by omega, hP⟩, CfgRegs.syncOk_iff.mpr hS⟩

/-- Division with remainder: a number below `n * d` is one quotient below `n` and one remainder below `d`. -/
theorem existsUnique_quotient_remainder {d n m : Nat} (h : m < n * d) :
    ∃! x : Nat × Nat, x.1 < d ∧ x.2 < n ∧ x.2 * d + x.1 = m := by
  have hd : 0 < d := Nat.pos_of_mul_pos_left (Nat.zero_lt_of_lt h)
  refine ⟨(m % d, m / d), ⟨Nat.mod_lt m hd, Nat.div_lt_of_lt_mul (by rwa [Nat.mul_comm]), Nat.div_add_mod' m d⟩, ?_⟩
  rintro ⟨r, q⟩ ⟨hr, -, rfl⟩
  have hr : r < d := hr
  simp only [Prod.mk.injEq]
  rw [Nat.mul_comm q d, Nat.mul_add_mod, Nat.mod_eq_of_lt hr, Nat.mul_add_div hd, Nat.div_eq_of_lt hr]
  exact ⟨rfl, rfl⟩

/-- Settles O13: the frame after the sync bytes is `(255 - VF) * I` bytes, and a byte's position and interleave are its
quotient and remainder by `I`. -/
theorem codewordsPartitionTheFrame : Obligations.CodewordsPartitionTheFrame := by
  intro c hc
  refine ⟨CfgRegs.FLEN_le (frameOk_of_claim hc), fun il p hil hp => ⟨by omega, CfgRegs.symbol_lt_FLEN hil hp⟩,
    fun k hS hF => ?_⟩
  have hm : k - c.S < (255 - c.VF) * c.I := by
    have : c.FLEN = c.S + (255 - c.VF) * c.I := rfl
    omega
  have same (x : Nat × Nat) : c.S + x.2 * c.I + x.1 = k ↔ x.2 * c.I + x.1 = k - c.S := by omega
  simpa only [same] using existsUnique_quotient_remainder hm

end Sys2Proof.Proofs
end

section
/-! PROOF. The marker search (R290): the loop of the model and the partial-match index of the claims say the same, and
no occurrence of a marker whose first byte does not recur in it is missed. -/

namespace Sys2Proof.Proofs
open Sys2Proof.Machine Sys2Proof.Claims

variable (s : State)

/-! ### The partial-match index -/

theorem matchIndex_succ (n : Nat) : matchIndex s (n + 1) =
    if s.inByte (s.rdptr + n) = s.cfg.MK (matchIndex s n) then matchIndex s n + 1
    else if s.inByte (s.rdptr + n) = s.cfg.MK 0 then 1 else 0 := rfl

/-- One byte raises the index by one at most. -/
theorem matchIndex_succ_le (n : Nat) : matchIndex s (n + 1) ≤ matchIndex s n + 1 := by
  rw [matchIndex_succ]
  split
  · exact Nat.le_refl _
  · split <;> omega

/-- So an index that has not been `S` is below it. -/
theorem matchIndex_lt {n : Nat} (hS : 1 ≤ s.cfg.S) (h : ∀ m ≤ n, matchIndex s m ≠ s.cfg.S) :
    matchIndex s n < s.cfg.S := by
  induction n with
  | zero => exact hS
  | succ n ih =>
    have := ih fun m hm => h m (by omega)
    have := matchIndex_succ_le s n
    have := h (n + 1) (Nat.le_refl _)
    omega

/-- Marker bytes that continue the matched part raise the index to their number. -/
theorem matchIndex_of_marker {n i : Nat} (hi : matchIndex s (n + i) = i)
    (h : ∀ j, i ≤ j → j < s.cfg.S → s.inByte (s.rdptr + n + j) = s.cfg.MK j) :
    ∀ j, i ≤ j → j ≤ s.cfg.S → matchIndex s (n + j) = j := by
  intro j hij
  induction j, hij using Nat.le_induction with
  | base => exact fun _ => hi
  | succ j hij ih =>
    intro hj
    have hidx := ih (by omega)
    rw [← Nat.add_assoc, matchIndex_succ, hidx, ← Nat.add_assoc, if_pos (h j hij (by omega))]

/-- Where the index is `S` inside the stream, R290's loop has returned at the latest. -/
theorem exists_foundAfter {n : Nat} (hn : s.rdptr + n ≤ s.inLen) (h : matchIndex s n = s.cfg.S) :
    ∃ k ≤ n, FoundAfter s k := by
  have ex : ∃ k, matchIndex s k = s.cfg.S := ⟨n, h⟩
  have hle : Nat.find ex ≤ n := Nat.find_min' ex h
  exact ⟨Nat.find ex, hle, by omega, Nat.find_spec ex, fun m hm => Nat.find_min ex hm⟩

/-- The loop returns once. -/
theorem foundAfter_unique {n k : Nat} (hn : FoundAfter s n) (hk : FoundAfter s k) : n = k := by
  obtain ⟨-, hn, hn'⟩ := hn
  obtain ⟨-, hk, hk'⟩ := hk
  exact Nat.le_antisymm (Nat.le_of_not_lt fun h => hn' k h hk) (Nat.le_of_not_lt fun h => hk' n h hn)

/-! ### The model's loop -/

/-- One turn of the model's loop: it returns where the index becomes `S`, else goes on with the new index (R290). -/
theorem searchFrom_succ {m : Nat} (n : Nat) (hm : matchIndex s m < s.cfg.S) :
    searchFrom s (n + 1) (s.rdptr + m) (matchIndex s m) =
      if matchIndex s (m + 1) = s.cfg.S then some (s.rdptr + (m + 1))
      else searchFrom s n (s.rdptr + (m + 1)) (matchIndex s (m + 1)) := by
  rw [searchFrom, matchIndex_succ]
  by_cases hb : s.inByte (s.rdptr + m) = s.cfg.MK (matchIndex s m)
  · simp only [if_pos hb]
    rfl
  · have restart : (if s.inByte (s.rdptr + m) = s.cfg.MK 0 then 1 else 0) ≠ s.cfg.S := by
      split
      · next h0 =>
        have : matchIndex s m ≠ 0 := fun h => hb (h ▸ h0)
        omega
      · omega
    simp only [if_neg hb, if_neg restart]
    rfl

/-- The loop over the next `n` bytes answers where the index first becomes `S`, and nothing where it does not (R290). -/
theorem searchFrom_spec : ∀ n m, matchIndex s m < s.cfg.S →
    (∃ k ≤ m + n, searchFrom s n (s.rdptr + m) (matchIndex s m) = some (s.rdptr + k) ∧
      matchIndex s k = s.cfg.S ∧ ∀ j, m ≤ j → j < k → matchIndex s j ≠ s.cfg.S) ∨
    (searchFrom s n (s.rdptr + m) (matchIndex s m) = none ∧
      ∀ j, m ≤ j → j ≤ m + n → matchIndex s j ≠ s.cfg.S)
  | 0, m, hm => .inr ⟨rfl, fun j hj hj' => by rw [Nat.le_antisymm hj' hj]; exact Nat.ne_of_lt hm⟩
  | n + 1, m, hm => by
    have from_succ {p : Nat → Prop} (h : ∀ j, m + 1 ≤ j → p j → matchIndex s j ≠ s.cfg.S) :
        ∀ j, m ≤ j → p j → matchIndex s j ≠ s.cfg.S := fun j hj hp => by
      rcases Nat.eq_or_lt_of_le hj with rfl | hj
      · exact Nat.ne_of_lt hm
      · exact h j hj hp
    rw [searchFrom_succ s n hm]
    by_cases hhit : matchIndex s (m + 1) = s.cfg.S
    · exact .inl ⟨m + 1, by omega, if_pos hhit, hhit, from_succ fun j hj hj' => absurd hj' (by omega)⟩
    · have hlt : matchIndex s (m + 1) < s.cfg.S := by
        have := matchIndex_succ_le s m
        omega
      rw [if_neg hhit]
      rcases searchFrom_spec n (m + 1) hlt with ⟨k, hk, hfound, hkS, hbefore⟩ | ⟨hnone, hbefore⟩
      · exact .inl ⟨k, by omega, hfound, hkS, from_succ hbefore⟩
      · exact .inr ⟨hnone, from_succ fun j hj hj' => hbefore j hj (by omega)⟩

/-- `find` from `RDPTR` is R290's loop as the claims word it. -/
theorem find_rdptr_cases (hS : 1 ≤ s.cfg.S) :
    (∃ n, FoundAfter s n ∧ s.find s.rdptr = some (s.rdptr + n)) ∨
      ((∀ n, ¬ FoundAfter s n) ∧ s.find s.rdptr = none) := by
  rcases searchFrom_spec s (s.inLen - s.rdptr) 0 hS with ⟨k, hk, hfound, hkS, hbefore⟩ | ⟨hnone, hbefore⟩
  · have hpos : k ≠ 0 := fun h => by rw [h] at hkS; exact absurd hkS (Nat.ne_of_lt hS)
    exact .inl ⟨k, ⟨by omega, hkS, fun m hm => hbefore m (Nat.zero_le m) hm⟩, hfound⟩
  · exact .inr ⟨fun n hn => hbefore n (Nat.zero_le n) (by have := hn.1; omega) hn.2.1, hnone⟩

theorem find_of_foundAfter {n : Nat} (hS : 1 ≤ s.cfg.S) (h : FoundAfter s n) : s.find s.rdptr = some (s.rdptr + n) := by
  rcases find_rdptr_cases s hS with ⟨k, hk, hfound⟩ | ⟨hnone, -⟩
  · rw [hfound, foundAfter_unique s h hk]
  · exact absurd h (hnone n)

/-! ### SYNC_FIND (R291) -/

/-- Completion with OK leaves `ERR` as it was (R503). -/
theorem complete_ok : s.complete .ok = { s with status := doneOk s.status } := by
  simp [State.complete, Status.complete, doneOk]

/-- `RDPTR` at the end of the stream is `IN_LEN` itself (R42, R43). -/
theorem setRdptr_inLen :
    s.setRdptr s.inLen = { s with stream := { s.stream with rdptr := s.stream.inLen } } := by
  simp [State.setRdptr, State.inLen]

theorem exec_syncFind_of_some {r : Nat} (hS : SyncOk s.cfg) (h : s.find s.rdptr = some r) :
    exec .syncFind s = .next (syncFound s r) := by
  have hc : firstFailure (checksOf .syncFind s) = none := by simp [checksOf, CfgRegs.syncOk_iff.mpr hS]
  rw [exec_passed hc, complete_ok]
  simp only [bodyOf, syncFindBody, h]
  rfl

theorem exec_syncFind_of_none (hS : SyncOk s.cfg) (h : s.find s.rdptr = none) :
    exec .syncFind s = .next (syncEnded s) := by
  have hc : firstFailure (checksOf .syncFind s) = none := by simp [checksOf, CfgRegs.syncOk_iff.mpr hS]
  rw [exec_passed hc, complete_ok]
  simp only [bodyOf, syncFindBody, h, setRdptr_inLen]
  rfl

/-- Settles O33: `find` is R290's loop, and what it has found is a full match; a marker at `RDPTR` raises the index to
`S` at once. -/
theorem syncFindStopsAfterMarker : Obligations.SyncFindStopsAfterMarker := by
  intro s hS
  have hS1 : 1 ≤ s.cfg.S := hS.1
  have found {n : Nat} (h : FoundAfter s n) : exec .syncFind s = .next (syncFound s (s.rdptr + n)) :=
    exec_syncFind_of_some s hS (find_of_foundAfter s hS1 h)
  refine ⟨?_, fun n => found, fun hnone => ?_, fun hlen hmarker => ?_⟩
  · cases hf : s.find s.rdptr with
    | none => exact .inr (exec_syncFind_of_none s hS hf)
    | some r =>
      obtain ⟨hr, hmatch⟩ := find_sound hS1 hf
      exact .inl ⟨r, hr, (find_bounds hf).2, hmatch, exec_syncFind_of_some s hS hf⟩
  · rcases find_rdptr_cases s hS1 with ⟨n, hn, -⟩ | ⟨-, hf⟩
    · exact absurd hn (hnone n)
    · exact exec_syncFind_of_none s hS hf
  · have index (j : Nat) (hj : j ≤ s.cfg.S) : matchIndex s (0 + j) = j :=
      matchIndex_of_marker s (n := 0) (i := 0) rfl (fun j _ hj => hmarker j hj) j (Nat.zero_le j) hj
    simp only [Nat.zero_add] at index
    exact found ⟨hlen, index _ (Nat.le_refl _), fun m hm => by rw [index m (by omega)]; omega⟩

/-! ### A marker that cannot overlap itself (R292) -/

/-- Where the marker's first byte does not recur in it, an occurrence in the stream brings the index to `S`, if it has
not been there before: its first byte restarts the match. -/
theorem matchIndex_of_occurrence {n : Nat} (hS : 1 ≤ s.cfg.S)
    (hmk : ∀ j, 1 ≤ j → j < s.cfg.S → s.cfg.MK j ≠ s.cfg.MK 0)
    (hocc : ∀ j < s.cfg.S, s.inByte (s.rdptr + n + j) = s.cfg.MK j) (hbefore : ∀ m ≤ n, matchIndex s m ≠ s.cfg.S) :
    matchIndex s (n + s.cfg.S) = s.cfg.S := by
  have hlt := matchIndex_lt s hS hbefore
  have h0 : s.inByte (s.rdptr + n) = s.cfg.MK 0 := hocc 0 hS
  have hfirst : matchIndex s (n + 1) = 1 := by
    rw [matchIndex_succ]
    by_cases hidx : matchIndex s n = 0
    · rw [hidx, if_pos h0]
    · rw [if_neg fun hb => hmk _ (by omega) hlt (hb.symm.trans h0), if_pos h0]
  exact matchIndex_of_marker s hfirst (fun j _ hj => hocc j hj) _ hS (Nat.le_refl _)

/-- So R290's loop returns at the end of an occurrence at the latest. -/
theorem exists_foundAfter_of_occurrence {n : Nat} (hS : 1 ≤ s.cfg.S)
    (hmk : ∀ j, 1 ≤ j → j < s.cfg.S → s.cfg.MK j ≠ s.cfg.MK 0) (hlen : s.rdptr + n + s.cfg.S ≤ s.inLen)
    (hocc : ∀ j < s.cfg.S, s.inByte (s.rdptr + n + j) = s.cfg.MK j) : ∃ k ≤ n + s.cfg.S, FoundAfter s k := by
  by_cases hbefore : ∀ m ≤ n, matchIndex s m ≠ s.cfg.S
  · exact exists_foundAfter s (by omega) (matchIndex_of_occurrence s hS hmk hocc hbefore)
  · push Not at hbefore
    obtain ⟨m, hm, hidx⟩ := hbefore
    obtain ⟨k, hk, hfound⟩ := exists_foundAfter s (n := m) (by omega) hidx
    exact ⟨k, by omega, hfound⟩

/-- The bytes of the default marker (R40). -/
theorem MK_default {c : CfgRegs} (h : c.marker0 = 0x1DFCCF1A) {j : Nat} (hj : j < 4) :
    c.MK j = [0x1A#8, 0xCF#8, 0xFC#8, 0x1D#8].getD j 0 := by
  have bytes : ∀ j < 4, wordByte 0x1DFCCF1A j = [0x1A#8, 0xCF#8, 0xFC#8, 0x1D#8].getD j 0 := by decide
  rw [CfgRegs.MK, if_pos hj, h, bytes j hj]

theorem MK_default_ne_first {c : CfgRegs} (h : c.marker0 = 0x1DFCCF1A) {j : Nat} (h1 : 1 ≤ j) (hj : j < 4) :
    c.MK j ≠ c.MK 0 := by
  have differ : ∀ j < 4, 1 ≤ j → [0x1A#8, 0xCF#8, 0xFC#8, 0x1D#8].getD j 0 ≠ 0x1A#8 := by decide
  rw [MK_default h hj, MK_default h (by omega)]
  exact differ j hj h1

/-- Settles O34: an occurrence that ends before the stop, or in a stream where the search ends, would have ended the
loop. -/
theorem defaultMarkerSearchIsComplete : Obligations.DefaultMarkerSearchIsComplete := by
  intro s t hslen hmk0 hexec
  have hS4 : s.cfg.S = 4 := by rw [CfgRegs.S, hslen]; rfl
  have hS : SyncOk s.cfg := by rw [SyncOk, hS4]; omega
  have occurrence {r : Nat} (hr : s.rdptr + 4 ≤ r) (hlen : r ≤ s.inLen)
      (hall : ∀ j < 4, s.inByte (r - 4 + j) = [0x1A#8, 0xCF#8, 0xFC#8, 0x1D#8].getD j 0) :
      ∃ k, s.rdptr + k ≤ r ∧ FoundAfter s k := by
    have hoff : s.rdptr + (r - 4 - s.rdptr) = r - 4 := by omega
    obtain ⟨k, hk, hfound⟩ := exists_foundAfter_of_occurrence s (n := r - 4 - s.rdptr) hS.1
      (fun j h1 hj => MK_default_ne_first hmk0 h1 (hS4 ▸ hj)) (by omega)
      (fun j hj => by rw [hoff, MK_default hmk0 (hS4 ▸ hj)]; exact hall j (hS4 ▸ hj))
    exact ⟨k, by omega, hfound⟩
  rcases find_rdptr_cases s hS.1 with ⟨n, hn, hf⟩ | ⟨hnone, hf⟩
  · have hend : (BitVec.ofNat 17 (s.rdptr + n)).toNat = s.rdptr + n := by
      have := hn.1
      have := s.stream.inLen.isLt
      simp only [State.inLen] at *
      exact Nat.mod_eq_of_lt (by omega)
    obtain rfl : syncFound s (s.rdptr + n) = t := by simpa using (exec_syncFind_of_some s hS hf).symm.trans hexec
    refine ⟨fun _ r hr hlt => ?_, fun h => absurd h (by simp [syncFound])⟩
    have hlt : r < s.rdptr + n := hlt.trans_eq hend
    by_contra hall
    push Not at hall
    obtain ⟨k, hk, hfound⟩ := occurrence hr (by have := hn.1; omega) hall
    have := foundAfter_unique s hn hfound
    omega
  · obtain rfl : syncEnded s = t := by simpa using (exec_syncFind_of_none s hS hf).symm.trans hexec
    refine ⟨fun h => absurd h (by simp [syncEnded]), fun _ r hr hlen => ?_⟩
    by_contra hall
    push Not at hall
    obtain ⟨k, -, hfound⟩ := occurrence hr hlen hall
    exact hnone k hfound

end Sys2Proof.Proofs
end

section
/-! PROOF. CADU_READ as a copy (R312 to R314): the marker's bytes and the payload's are adjacent in the stream and in
`FB`, so the two copies of a read are one. -/

namespace Sys2Proof.Proofs
open Sys2Proof.Machine Sys2Proof.Claims

/-! ### Copies into `FB` -/

/-- `m'` is `m` with `FB[base + j] <- f j` for `j < n`. -/
def Copied (base n : Nat) (f : Nat → Byte) (m m' : Memory) : Prop :=
  ∀ a, m'.byteAt a = if fbBase + base ≤ a ∧ a < fbBase + base + n then f (a - (fbBase + base)) else m.byteAt a

/-- A copy into `FB` changes the RAM alone, to the bytes copied. -/
theorem exists_copied (s : State) (base n : Nat) (f : Nat → Byte) :
    ∃ m, s.fillFb base n f = { s with mem := m } ∧ Copied base n f s.mem m :=
  ⟨_, s.memOnly_fillFb base n f, s.byteAt_fillFb base n f⟩

/-- Two adjacent copies are one. -/
theorem Copied.append {k n : Nat} {f : Nat → Byte} {m₀ m₁ m₂ : Memory} (h₁ : Copied 0 k f m₀ m₁)
    (h₂ : Copied k n (fun j => f (k + j)) m₁ m₂) : Copied 0 (k + n) f m₀ m₂ := by
  intro a
  rw [h₂ a, h₁ a]
  by_cases hk : fbBase + k ≤ a ∧ a < fbBase + k + n
  · rw [if_pos hk, if_pos (by omega)]
    exact congrArg f (by omega)
  · rw [if_neg hk]
    by_cases h : fbBase + 0 ≤ a ∧ a < fbBase + 0 + k
    · rw [if_pos h, if_pos (by omega)]
    · rw [if_neg h, if_neg (by omega)]

/-- The marker copied from stream offset `p`, then the payload from the offset after it: one copy from `p`. The first
copy stays inside the buffer, so it leaves the stream alone. -/
theorem Copied.payload {s u : State} {p q k n l : Nat} {m : Memory} (hk : k ≤ Config.fbSize) (hq : q = p + k)
    (hl : l = k + n) (h₁ : Copied 0 k (fun j => s.inByte (p + j)) s.mem u.mem)
    (h₂ : Copied k n (fun j => u.inByte (q + j)) u.mem m) :
    Copied 0 l (fun j => s.inByte (p + j)) s.mem m := by
  have stream (i : Nat) : u.inByte i = s.inByte i := by
    refine (h₁ (inBase + i)).trans (if_neg ?_)
    simp only [fbBase, inBase, Config.fbSize] at *
    omega
  simp only [stream, hq, Nat.add_assoc] at h₂
  exact hl ▸ h₁.append h₂

/-- What the RAM holds at element `k` of `FB` after a copy from the buffer's start. -/
theorem Copied.element {n k : Nat} {f : Nat → Byte} {m m' : Memory} (h : Copied 0 n f m m') (hk : k < n) :
    m'.byteAt (fbBase + k) = f k :=
  (h (fbBase + k)).trans ((if_pos (by omega)).trans (congrArg f (by omega)))

/-! ### The payload (R312, R314) -/

/-- The payload is whole and both stages are off: it is copied and the frame counted. -/
theorem readPayload_whole {s : State} {q : Nat} (hdr : s.cfg.rsCfg.drEn = false) (hrs : s.cfg.rsCfg.rsEn = false)
    (hlen : q + (s.cfg.FLEN - s.cfg.S) ≤ s.inLen) : ∃ m,
    Copied s.cfg.S (s.cfg.FLEN - s.cfg.S) (fun j => s.inByte (q + j)) s.mem m ∧
    readPayload q s = { s with
      stream := { s.stream with rdptr := BitVec.ofNat 17 (q + (s.cfg.FLEN - s.cfg.S)),
                                caduCount := s.stream.caduCount + 1 },
      status := { s.status with frameValid := true }, mem := m } := by
  obtain ⟨m, hm, hcopy⟩ := exists_copied s s.cfg.S (s.cfg.FLEN - s.cfg.S) fun j => s.inByte (q + j)
  refine ⟨m, hcopy, ?_⟩
  simp only [readPayload, if_neg (show ¬ s.inLen - q < s.cfg.FLEN - s.cfg.S by omega), hm, finishFrame]
  simp [State.setRdptr, State.setFrameValid, hdr, hrs]

/-- The stream ends in the payload: the bytes there are, are copied, whatever the stages' enables say. -/
theorem readPayload_short {s : State} {q : Nat} (hlen : s.inLen - q < s.cfg.FLEN - s.cfg.S) : ∃ m,
    Copied s.cfg.S (s.inLen - q) (fun j => s.inByte (q + j)) s.mem m ∧
    readPayload q s = { s with
      stream := { s.stream with rdptr := s.stream.inLen },
      status := { s.status with short := true, eos := false, frameValid := false }, mem := m } := by
  obtain ⟨m, hm, hcopy⟩ := exists_copied s s.cfg.S (s.inLen - q) fun j => s.inByte (q + j)
  refine ⟨m, hcopy, ?_⟩
  simp only [readPayload, if_pos hlen, hm, shortRead]
  simp [State.setRdptr, State.inLen]

/-! ### The marker (R312, R313) -/

/-- The state in which search mode reads the payload: the marker that ends at `r` is counted and copied to `m`. -/
def markerFound (s : State) (r : Nat) (m : Memory) : State :=
  { s with
    stream := { s.stream with syncOff := BitVec.ofNat 17 r, syncCount := s.stream.syncCount + 1 },
    status := { s.status with eos := false, short := false, found := true, lockMiss := false }, mem := m }

theorem caduReadBody_search_of_find {s : State} {r : Nat} (h : s.find s.rdptr = some r) : ∃ m,
    Copied 0 s.cfg.S (fun j => s.inByte (r - s.cfg.S + j)) s.mem m ∧
    caduReadBody .search s = readPayload r (markerFound s r m) := by
  obtain ⟨m, hm, hcopy⟩ := exists_copied (((s.setSyncOff r).countSync).setStreamFlags false false true false) 0 s.cfg.S
    fun j => s.inByte (r - s.cfg.S + j)
  refine ⟨m, hcopy, ?_⟩
  simp only [caduReadBody, caduSearch, h]
  exact congrArg (readPayload r) hm

/-- The marker bytes there are in locked mode differ from the marker (R313). -/
def lockMissed (s : State) : Bool :=
  decide (∃ j < min (s.inLen - s.rdptr) s.cfg.S, s.inByte (s.rdptr + j) ≠ markerByte s.cfg j)

/-- With all `S` bytes there, they are compared with the whole marker. -/
theorem lockMissed_of_le {s : State} (h : s.cfg.S ≤ s.inLen - s.rdptr) :
    lockMissed s = decide (∃ j < s.cfg.S, s.inByte (s.rdptr + j) ≠ markerByte s.cfg j) := by
  simp only [lockMissed, Nat.min_eq_right h]

theorem any_range_eq_decide (n : Nat) (p : Nat → Prop) [DecidablePred p] :
    ((List.range n).any fun j => decide (p j)) = decide (∃ j < n, p j) := by
  rw [Bool.eq_iff_iff]
  simp

/-- The state in which locked mode goes on: the marker bytes there are, are compared and copied to `m`. -/
def markerTaken (s : State) (m : Memory) : State :=
  { s with
    status := { s.status with eos := false, short := false, found := false, lockMiss := lockMissed s }, mem := m }

theorem caduReadBody_locked_of_lt {s : State} (h : s.rdptr < s.inLen) : ∃ m,
    Copied 0 (min (s.inLen - s.rdptr) s.cfg.S) (fun j => s.inByte (s.rdptr + j)) s.mem m ∧
    caduReadBody .locked s =
      if s.inLen - s.rdptr < s.cfg.S then shortRead s.inLen (markerTaken s m)
      else readPayload (s.rdptr + s.cfg.S) ((markerTaken s m).setSyncOff (s.rdptr + s.cfg.S)) := by
  obtain ⟨m, hm, hcopy⟩ := exists_copied s 0 (min (s.inLen - s.rdptr) s.cfg.S) fun j => s.inByte (s.rdptr + j)
  have hend : s.rdptr + (s.inLen - s.rdptr) = s.inLen := by omega
  refine ⟨m, hcopy, ?_⟩
  simp only [caduReadBody, caduLocked, if_neg (show ¬ s.inLen - s.rdptr = 0 by omega), hm, hend]
  rw [any_range_eq_decide _ fun j => s.inByte (s.rdptr + j) ≠ s.cfg.MK j]
  rfl

/-! ### CADU_READ -/

/-- Outside LINE_DONE, with a legal configuration, CADU_READ runs its body (R317, R504). -/
theorem exec_caduRead {s : State} (lk : ReadMode) (hp : s.dp.phase ≠ .lineDone) (hc : FrameOk s.cfg) :
    exec (.caduRead lk) s = .next { caduReadBody lk s with status := doneOk (caduReadBody lk s).status } := by
  have hchecks : firstFailure (checksOf (.caduRead lk) s) = none := by simp [checksOf, hp, frameOk_of_claim hc]
  rw [exec_passed hchecks, complete_ok]
  rfl

section
variable {s : State}

/-- Under `CFG_FRAME_OK` the marker fits the buffer (R69). -/
theorem S_le_fbSize (hc : FrameOk s.cfg) : s.cfg.S ≤ Config.fbSize :=
  CfgRegs.S_le_FLEN.trans (CfgRegs.FLEN_le (frameOk_of_claim hc))

theorem FLEN_eq_S_add_payload : s.cfg.FLEN = s.cfg.S + (s.cfg.FLEN - s.cfg.S) :=
  (Nat.add_sub_cancel' CfgRegs.S_le_FLEN).symm

/-- A whole frame, read in locked mode with both stages off (R313). -/
theorem caduRead_locked_whole (hp : s.dp.phase ≠ .lineDone) (hc : FrameOk s.cfg) (hdr : s.cfg.rsCfg.drEn = false)
    (hrs : s.cfg.rsCfg.rsEn = false) (hlen : s.rdptr + s.cfg.FLEN ≤ s.inLen) :
    ∃ t : State, exec (.caduRead .locked) s = .next t ∧
      t = { s with
        stream := { s.stream with
          rdptr := BitVec.ofNat 17 (s.rdptr + s.cfg.FLEN), syncOff := BitVec.ofNat 17 (s.rdptr + s.cfg.S),
          caduCount := s.stream.caduCount + 1 },
        status := { doneOk s.status with
          eos := false, short := false, found := false, frameValid := true,
          lockMiss := decide (∃ j < s.cfg.S, s.inByte (s.rdptr + j) ≠ markerByte s.cfg j) },
        mem := t.mem } ∧
      (∀ k < s.cfg.FLEN, t.fb k = s.inByte (s.rdptr + k)) := by
  have hS : 1 ≤ s.cfg.S := hc.2.1
  have hF := CfgRegs.S_le_FLEN (c := s.cfg)
  have hall : s.cfg.S ≤ s.inLen - s.rdptr := by omega
  have hend : s.rdptr + s.cfg.S + (s.cfg.FLEN - s.cfg.S) = s.rdptr + s.cfg.FLEN := by omega
  obtain ⟨m₁, hmarker, hbody⟩ := caduReadBody_locked_of_lt (s := s) (by omega)
  rw [Nat.min_eq_right hall] at hmarker
  rw [if_neg (by omega)] at hbody
  obtain ⟨m, hpayload, hread⟩ := readPayload_whole (s := (markerTaken s m₁).setSyncOff (s.rdptr + s.cfg.S))
    (q := s.rdptr + s.cfg.S) hdr hrs (hend.trans_le hlen)
  have hcopy := Copied.payload (S_le_fbSize hc) rfl FLEN_eq_S_add_payload hmarker hpayload
  rw [exec_caduRead .locked hp hc, hbody, hread, ← hend, ← lockMissed_of_le hall]
  exact ⟨_, rfl, rfl, fun k hk => hcopy.element hk⟩

/-- A whole frame, read in search mode with both stages off (R312). -/
theorem caduRead_search_whole {n : Nat} (hp : s.dp.phase ≠ .lineDone) (hc : FrameOk s.cfg)
    (hdr : s.cfg.rsCfg.drEn = false) (hrs : s.cfg.rsCfg.rsEn = false) (hn : FoundAfter s n)
    (hlen : s.rdptr + n + (s.cfg.FLEN - s.cfg.S) ≤ s.inLen) :
    ∃ t : State, exec (.caduRead .search) s = .next t ∧
      t = { s with
        stream := { s.stream with
          rdptr := BitVec.ofNat 17 (s.rdptr + n + (s.cfg.FLEN - s.cfg.S)), syncOff := BitVec.ofNat 17 (s.rdptr + n),
          syncCount := s.stream.syncCount + 1, caduCount := s.stream.caduCount + 1 },
        status := { doneOk s.status with
          eos := false, short := false, found := true, frameValid := true, lockMiss := false },
        mem := t.mem } ∧
      (∀ k < s.cfg.FLEN, t.fb k = s.inByte (s.rdptr + n - s.cfg.S + k)) := by
  have hfind := find_of_foundAfter s hc.2.1 hn
  have hS := (find_sound hc.2.1 hfind).1
  obtain ⟨m₁, hmarker, hbody⟩ := caduReadBody_search_of_find hfind
  obtain ⟨m, hpayload, hread⟩ := readPayload_whole (s := markerFound s (s.rdptr + n) m₁) (q := s.rdptr + n) hdr hrs hlen
  have hcopy := Copied.payload (S_le_fbSize hc) (by omega) FLEN_eq_S_add_payload hmarker hpayload
  rw [exec_caduRead .search hp hc, hbody, hread]
  exact ⟨_, rfl, rfl, fun k hk => hcopy.element hk⟩

/-- A short read in locked mode: the stream ends in the marker, or in the payload (R313, R314). -/
theorem caduRead_locked_short (hp : s.dp.phase ≠ .lineDone) (hc : FrameOk s.cfg) (hpos : s.rdptr < s.inLen)
    (hlen : s.inLen < s.rdptr + s.cfg.FLEN) :
    ∃ t : State, exec (.caduRead .locked) s = .next t ∧
      t = { s with
        stream := { s.stream with
          rdptr := s.stream.inLen,
          syncOff := if s.inLen < s.rdptr + s.cfg.S then s.stream.syncOff else BitVec.ofNat 17 (s.rdptr + s.cfg.S) },
        status := { doneOk s.status with
          eos := false, short := true, found := false, frameValid := false,
          lockMiss := decide (∃ j < min (s.inLen - s.rdptr) s.cfg.S,
            s.inByte (s.rdptr + j) ≠ markerByte s.cfg j) },
        mem := t.mem } ∧
      ∀ a, t.byteAt a = if 0x1000 ≤ a ∧ a < 0x1000 + (s.inLen - s.rdptr)
        then s.inByte (s.rdptr + (a - 0x1000)) else s.byteAt a := by
  obtain ⟨m₁, hmarker, hbody⟩ := caduReadBody_locked_of_lt hpos
  by_cases hS : s.inLen < s.rdptr + s.cfg.S
  · rw [Nat.min_eq_left (by omega)] at hmarker
    have hend : (markerTaken s m₁).setRdptr s.inLen =
        { markerTaken s m₁ with stream := { s.stream with rdptr := s.stream.inLen } } :=
      setRdptr_inLen (markerTaken s m₁)
    rw [exec_caduRead .locked hp hc, hbody, if_pos (by omega), shortRead, hend, if_pos hS]
    exact ⟨_, rfl, rfl, hmarker⟩
  · rw [Nat.min_eq_right (by omega)] at hmarker
    obtain ⟨m, hpayload, hread⟩ := readPayload_short (s := (markerTaken s m₁).setSyncOff (s.rdptr + s.cfg.S))
      (q := s.rdptr + s.cfg.S) (show s.inLen - (s.rdptr + s.cfg.S) < s.cfg.FLEN - s.cfg.S by omega)
    have hsum : s.inLen - s.rdptr = s.cfg.S + (s.inLen - (s.rdptr + s.cfg.S)) := by omega
    have hcopy := Copied.payload (S_le_fbSize hc) rfl hsum hmarker hpayload
    rw [exec_caduRead .locked hp hc, hbody, if_neg (by omega), hread, if_neg hS]
    exact ⟨_, rfl, rfl, hcopy⟩

/-- A short read in search mode: the stream ends in the payload after a marker (R312, R314). -/
theorem caduRead_search_short {n : Nat} (hp : s.dp.phase ≠ .lineDone) (hc : FrameOk s.cfg) (hn : FoundAfter s n)
    (hlen : s.inLen < s.rdptr + n + (s.cfg.FLEN - s.cfg.S)) :
    ∃ t : State, exec (.caduRead .search) s = .next t ∧
      t = { s with
        stream := { s.stream with
          rdptr := s.stream.inLen, syncOff := BitVec.ofNat 17 (s.rdptr + n), syncCount := s.stream.syncCount + 1 },
        status := { doneOk s.status with
          eos := false, short := true, found := true, frameValid := false, lockMiss := false },
        mem := t.mem } ∧
      ∀ a, t.byteAt a = if 0x1000 ≤ a ∧ a < 0x1000 + (s.cfg.S + (s.inLen - (s.rdptr + n)))
        then s.inByte (s.rdptr + n - s.cfg.S + (a - 0x1000)) else s.byteAt a := by
  have hfind := find_of_foundAfter s hc.2.1 hn
  have hS := (find_sound hc.2.1 hfind).1
  have hend := (find_bounds hfind).2
  obtain ⟨m₁, hmarker, hbody⟩ := caduReadBody_search_of_find hfind
  obtain ⟨m, hpayload, hread⟩ := readPayload_short (s := markerFound s (s.rdptr + n) m₁) (q := s.rdptr + n)
    (show s.inLen - (s.rdptr + n) < s.cfg.FLEN - s.cfg.S by omega)
  have hcopy := Copied.payload (S_le_fbSize hc) (by omega) rfl hmarker hpayload
  rw [exec_caduRead .search hp hc, hbody, hread]
  exact ⟨_, rfl, rfl, hcopy⟩

end

/-- Settles O37, by the four kinds of read: whole or short, in either mode. -/
theorem caduReadCopiesFrame : Obligations.CaduReadCopiesFrame :=
  ⟨fun _ hp hc hdr hrs => ⟨caduRead_locked_whole hp hc hdr hrs, fun _ => caduRead_search_whole hp hc hdr hrs⟩,
    fun _ hp hc => ⟨caduRead_locked_short hp hc, fun _ => caduRead_search_short hp hc⟩⟩

end Sys2Proof.Proofs
end

section
/-! PROOF. The registers as the host sees them (R32 to R67): each word is its fields at their bit places. -/

namespace Sys2Proof.Proofs
open Sys2Proof.Machine Sys2Proof.Claims

/-! ### Words -/

/-- A field that starts a register keeps its value through the reserved bits above it (R106). -/
theorem toNat_setWidth_word {n : Nat} (x : BitVec n) (h : n ≤ 32) : (x.setWidth 32).toNat = x.toNat :=
  BitVec.toNat_setWidth_of_le h

/-! ### The frame views (R52 to R55) and the derived fields (R41, R57) -/

theorem vcduWord_toNat (s : State) :
    s.vcduWord.toNat = 256 * (s.fb s.cfg.S).toNat + (s.fb (s.cfg.S + 1)).toNat := by
  simp only [State.vcduWord, be16, toNat_append_add]
  omega

theorem vcduId_toNat (s : State) :
    s.vcduId.toNat = (256 * (s.fb s.cfg.S).toNat + (s.fb (s.cfg.S + 1)).toNat) % 16384 := by
  rw [State.vcduId, BitVec.extractLsb'_toNat, vcduWord_toNat]
  rfl

/-- The identifier's two parts, `SCID` above `VCID` (R53). -/
theorem vcduVcWord_toNat (s : State) : s.vcduVcWord.toNat = 256 * (s.vcduId.toNat / 64) + s.vcduId.toNat % 64 := by
  have := s.vcduId.isLt
  simp only [State.vcduVcWord, toNat_append_add, BitVec.extractLsb'_toNat,
    Nat.shiftRight_eq_div_pow, BitVec.toNat_ofNat]
  omega

theorem vcduEncWord_toNat (s : State) : s.vcduEncWord.toNat =
    if s.cfg.dpCfg.h8 then 256 * (s.fb (s.cfg.S + 7)).toNat + (s.fb (s.cfg.S + 6)).toNat else 0 := by
  unfold State.vcduEncWord
  split
  · simp only [toNat_append_add, BitVec.toNat_ofNat]
    omega
  · rfl

theorem fhp_toNat (s : State) : s.fhp.toNat = headerPointer s := by
  simp only [State.fhp, be16, BitVec.extractLsb'_toNat, toNat_append_add, headerPointer, Nat.shiftRight_zero]
  omega

theorem H_eq (c : CfgRegs) : c.H = 6 + 2 * c.dpCfg.h8.toNat := by
  unfold CfgRegs.H
  cases c.dpCfg.h8 <;> rfl

theorem mpduWord_toNat (s : State) : s.mpduWord.toNat = 65536 * (s.cfg.H + 2) + headerPointer s := by
  have hH : s.cfg.H ≤ 8 := by
    have := s.cfg.dpCfg.h8.toNat_le
    have := H_eq s.cfg
    omega
  simp only [State.mpduWord, toNat_append_add, fhp_toNat, BitVec.toNat_ofNat]
  omega

/-- The frame length of any configuration fits the 12 bits of `FRAME_LEN` (R41). -/
theorem FLEN_lt (c : CfgRegs) : c.FLEN < 4096 := by
  have hS := c.slen.isLt
  have hI := c.rsCfg.i.isLt
  have := Nat.mul_le_mul c.NSYM_le (show c.I ≤ 15 by simp only [CfgRegs.I]; omega)
  simp only [CfgRegs.FLEN, CfgRegs.S]
  omega

/-- `DP_ZONE` is `ZS` below `EFF` (R57). -/
theorem zoneWord_toNat (c : CfgRegs) : c.zoneWord.toNat = c.dpZs.toNat +
    65536 * (if 0 ≤ zoneSize c ∧ zoneSize c ≤ 2047 then (zoneSize c).toNat else 0) := by
  have eff : c.eff.toNat = if 0 ≤ zoneSize c ∧ zoneSize c ≤ 2047 then (zoneSize c).toNat else 0 := by
    change (if 0 ≤ zoneSize c ∧ zoneSize c ≤ 2047 then BitVec.ofNat 11 (zoneSize c).toNat else 0).toNat = _
    split
    · exact Nat.mod_eq_of_lt (by omega)
    · rfl
  rw [← eff]
  simp only [CfgRegs.zoneWord, toNat_append_add, BitVec.toNat_ofNat]
  omega

/-- Settles O57: each view is a word of bytes of `FB`, and each derived field fits its bits. -/
theorem frameViewsReadFb : Obligations.FrameViewsReadFb := by
  intro s
  refine ⟨?_, ?_, vcduEncWord_toNat s, mpduWord_toNat s, H_eq s.cfg, rfl, rfl, ?_, zoneWord_toNat s.cfg⟩
  · exact (toNat_setWidth_word s.vcduId (by omega)).trans (vcduId_toNat s)
  · rw [← vcduId_toNat]
    exact vcduVcWord_toNat s
  · exact (toNat_setWidth_word _ (by omega)).trans (Nat.mod_eq_of_lt (FLEN_lt s.cfg))

/-! ### STATUS and the result registers (R34, R47, R48, R50, R63, R66) -/

theorem errCode_bits (code : ErrCode) : code.bits = codeNumber code := by cases code <;> rfl

theorem dpPhase_bits (p : DpPhase) : p.bits = phaseNumber p := by cases p <;> rfl

/-- `STATUS` holds nothing in bits [31:16] and bit 3 (R34). -/
theorem statusWord_reserved (s : State) : s.statusWord &&& 0xFFFF0008 = 0 := by
  change s.statusWord &&& (0xFFFF#16 ++ 0#1 ++ 0#1 ++ 0#1 ++ 0#1 ++ 0#1 ++ 0#1 ++ 0#1 ++ 0#1 ++ 0#4 ++ 1#1 ++ 0#1 ++
    0#1 ++ 0#1) = 0
  rw [State.statusWord, BitVec.and_append]
  simp only [BitVec.and_append, BitVec.zero_and, BitVec.and_zero]
  rfl

/-- `RS_RESULT` holds nothing in bits [30:12] (R47). -/
theorem rsResult_reserved (r : RsResult) : r.toWord &&& 0x7FFFF000 = 0 := by
  change r.toWord &&& (0#1 ++ 0x7FFFF#19 ++ 0#4 ++ 0#8) = 0
  rw [RsResult.toWord, BitVec.and_append]
  simp only [BitVec.and_append, BitVec.zero_and, BitVec.and_zero]
  rfl

/-- `RS_ILk` holds nothing in bits [31:10] and [7:5] (R48). -/
theorem rsIl_reserved (r : RsIl) : r.toWord &&& 0xFFFFFCE0 = 0 := by
  change r.toWord &&& (0x3FFFFF#22 ++ 0#1 ++ 0#1 ++ 7#3 ++ 0#5) = 0
  rw [RsIl.toWord, BitVec.and_append]
  simp only [BitVec.and_append, BitVec.zero_and, BitVec.and_zero]
  rfl

/-- `RS_STAGE` holds nothing in bits [31:27], [23:21], 19 and [7:6] (R50). -/
theorem rsStage_reserved (r : RsStage) : r.toWord &&& 0xF8E800C0 = 0 := by
  change r.toWord &&& (0x1F#5 ++ 0#3 ++ 7#3 ++ 0#1 ++ 1#1 ++ 0#2 ++ 0#1 ++ 0#8 ++ 3#2 ++ 0#6) = 0
  rw [RsStage.toWord, BitVec.and_append]
  simp only [BitVec.and_append, BitVec.zero_and, BitVec.and_zero]
  rfl

/-- `DP_STATE` holds nothing in bits [31:27] and [7:6] (R63). -/
theorem dpState_reserved (d : DpRegs) : d.stateWord &&& 0xF80000C0 = 0 := by
  change d.stateWord &&& (0x1F#5 ++ 0#11 ++ 0#8 ++ 3#2 ++ 0#1 ++ 0#1 ++ 0#2 ++ 0#2) = 0
  rw [DpRegs.stateWord, BitVec.and_append]
  simp only [BitVec.and_append, BitVec.zero_and, BitVec.and_zero]
  rfl

/-- `DP_PKT` holds nothing in bits [31:30] and [15:11] (R66). -/
theorem dpPkt_reserved (d : DpRegs) : d.pktWord &&& 0xC000F800 = 0 := by
  change d.pktWord &&& (3#2 ++ 0#14 ++ 0x1F#5 ++ 0#11) = 0
  rw [DpRegs.pktWord, BitVec.and_append]
  simp only [BitVec.and_append, BitVec.zero_and, BitVec.and_zero]
  rfl

/-- The one bit of a flag. -/
theorem getLsbD_ofBool_zero (b : Bool) : (BitVec.ofBool b).getLsbD 0 = b := by cases b <;> rfl

/-- The registers with one field (R33, R42 to R46, R49, R51, R64, R65, R67) and the constants (R32, R38). -/
theorem plainReads_toNat (s : State) : ∀ x ∈ plainReads, (s.readReg x.1).toNat = x.2 s := by
  simp only [plainReads, List.forall_mem_cons]
  exact ⟨rfl, rfl, rfl, toNat_setWidth_word _ (by omega), toNat_setWidth_word _ (by omega),
    toNat_setWidth_word _ (by omega), rfl, rfl, rfl, rfl, rfl, toNat_setWidth_word _ (by omega),
    toNat_setWidth_word _ (by omega), toNat_setWidth_word _ (by omega), rfl, rfl, rfl, rfl, rfl, fun _ h => nomatch h⟩

/-- Settles O59, register by register: the reserved bits by their masks, then each bit and each field of a word as the
part laid out there. -/
theorem statusAndResultRegistersShowState : Obligations.StatusAndResultRegistersShowState := by
  refine ⟨fun s => ?status, fun s => ?result, fun s k => ?il, fun s => ?stage, fun s => ?dpState, fun s => ?dpPkt,
    plainReads_toNat⟩
  all_goals simp only [State.readReg, statusWord_reserved, rsResult_reserved, rsIl_reserved, rsStage_reserved,
    dpState_reserved, dpPkt_reserved, and_true]
  all_goals simp +decide only [State.statusWord, State.lineReady, errCode_bits, RsResult.toWord, RsIl.toWord,
    RsStage.toWord, DpRegs.stateWord, dpPhase_bits, DpRegs.pktWord, BitVec.getLsbD_append, getLsbD_ofBool_zero,
    BitVec.extractLsb'_append_eq_of_le, BitVec.extractLsb'_append_eq_of_add_le, BitVec.extractLsb'_eq_self,
    Nat.reduceSub, if_false, if_pos trivial, and_self]

/-! ### The configuration registers (R35 to R37, R39, R40, R56, R58 to R62) -/

theorem irqEn_toNat (r : IrqEn) :
    r.toWord.toNat = 2 * r.doneIe.toNat + 2 ^ 2 * r.errIe.toNat + 2 ^ 13 * r.lineIe.toNat := by
  simp only [IrqEn.toWord, toNat_append_add, BitVec.toNat_ofNat, BitVec.toNat_ofBool]
  omega

theorem rsCfg_toNat (r : RsCfg) : r.toWord.toNat =
    r.t.toNat + 2 ^ 8 * r.i.toNat + 2 ^ 12 * r.basis.toNat + 2 ^ 16 * r.vf.toNat + 2 ^ 24 * r.rsEn.toNat +
      2 ^ 25 * r.drEn.toNat := by
  simp only [RsCfg.toWord, toNat_append_add, BitVec.toNat_ofNat, BitVec.toNat_ofBool]
  omega

theorem rsGen_toNat (r : RsGen) : r.toWord.toNat = r.mo.toNat + 2 ^ 8 * r.poa.toNat := by
  simp only [RsGen.toWord, toNat_append_add, BitVec.toNat_ofNat]
  omega

theorem dpCfg_toNat (r : DpCfg) :
    r.toWord.toNat = r.h8.toNat + 2 * r.apidFilt.toNat + 2 ^ 2 * r.zsAuto.toNat := by
  simp only [DpCfg.toWord, toNat_append_add, BitVec.toNat_ofNat, BitVec.toNat_ofBool]
  omega

theorem dpGeom_toNat (r : DpGeom) : r.toWord.toNat = r.w.toNat + 2 ^ 16 * r.c.toNat := by
  simp only [DpGeom.toWord, toNat_append_add, BitVec.toNat_ofNat]
  omega

theorem apidEntry_toNat (r : ApidEntry) : r.toWord.toNat = r.apid.toNat + 2 ^ 31 * r.v.toNat := by
  simp only [ApidEntry.toWord, toNat_append_add, BitVec.toNat_ofNat, BitVec.toNat_ofBool]
  omega

theorem configReads_toNat (s : State) : ∀ x ∈ configReads, (s.readReg x.1).toNat = x.2 s.cfg := by
  simp only [configReads, List.forall_mem_cons]
  exact ⟨irqEn_toNat _, rsCfg_toNat _, rsGen_toNat _, toNat_setWidth_word _ (by omega), rfl, rfl, dpCfg_toNat _,
    toNat_setWidth_word _ (by omega), dpGeom_toNat _, toNat_setWidth_word _ (by omega), rfl, rfl,
    fun _ h => nomatch h⟩

/-! ### Reading back a write (R106) -/

/-- Two words agree under a mask when their bits agree where the mask has one. -/
theorem and_eq_and_of_bits {x y mask : Word} (h : ∀ i < 32, mask.getLsbD i = true → x.getLsbD i = y.getLsbD i) :
    x &&& mask = y &&& mask := by
  refine BitVec.eq_of_getLsbD_eq fun i hi => ?_
  rw [BitVec.getLsbD_and, BitVec.getLsbD_and]
  cases hm : mask.getLsbD i with
  | false => simp
  | true => rw [h i hi hm]

/-- A register with one low field of `n` bits reads back under a mask of `n` bits. -/
theorem lowField_and (v : Word) {n : Nat} {mask : Word} (h : mask.toNat < 2 ^ n) :
    (v.extractLsb' 0 n).setWidth 32 &&& mask = v &&& mask := by
  refine and_eq_and_of_bits fun i hi hm => ?_
  have hin : i < n := by
    by_contra hle
    have : mask.getLsbD i = false := Nat.testBit_lt_two_pow (h.trans_le (Nat.pow_le_pow_right (by omega) (by omega)))
    simp [this] at hm
  simp [hi, hin]

theorem readReg_writeReg_same (s : State) (v : Word) {r : Reg} (hcmd : r ≠ .cmd) (hstatus : r ≠ .status)
    (hlen : r ≠ .inLen) : (s.writeReg v r).readReg r &&& rwBits r = v &&& rwBits r := by
  cases r with
  | cmd => exact absurd rfl hcmd
  | status => exact absurd rfl hstatus
  | inLen => exact absurd rfl hlen
  | syncCfg | rdptr | dpSkip | dpFill => exact lowField_and v (by decide)
  | marker0 | marker1 | syncCount | caduCount | rsTotCorr | rsTotUnc | rsTotFrames | vcidMask0 | vcidMask1 | dpLines
  | dpInc | dpProto | dpVcSkip | dpApSkip => rfl
  | irqEn | rsCfg | rsGen | dpCfg | dpZone | dpGeom | apid _ =>
    refine and_eq_and_of_bits fun i hi hm => ?_
    simp only [State.readReg, State.writeReg, State.setCfg_cfg, IrqEn.toWord, RsCfg.toWord, RsGen.toWord, DpCfg.toWord,
      CfgRegs.zoneWord, DpGeom.toWord, ApidEntry.toWord, Fin.getElem_fin, Vector.getElem_set_self,
      BitVec.getLsbD_append, BitVec.getLsbD_extractLsb']
    -- Bit by bit: the bits outside the mask are refuted, the others are the bits the field took.
    interval_cases i <;> simp +decide [rwBits] at hm <;> simp
  | _ => exact BitVec.and_zero.trans BitVec.and_zero.symm

/-- A register with no RW bit ignores writes (R106). -/
theorem writeReg_of_rwBits_zero (s : State) (v : Word) {r : Reg} (hcmd : r ≠ .cmd) (hstatus : r ≠ .status)
    (hlen : r ≠ .inLen) (h : rwBits r = 0) : s.writeReg v r = s := by
  cases r with
  | cmd => exact absurd rfl hcmd
  | status => exact absurd rfl hstatus
  | inLen => exact absurd rfl hlen
  | coreId | rsConst | frameLen | syncOff | rsResult | rsIl _ | rsStage | gfRes | vcduId | vcduVc | vcduEnc | mpdu
  | dpState | dpCursor | dpSpan | dpPkt => rfl
  | _ => exact absurd h (by simp [rwBits])

/-! ### Writes to other registers -/

/-- The bits of `DP_ZONE` beside `EFF` are `ZS` (R57). -/
theorem zoneWord_and (c : CfgRegs) : c.zoneWord &&& 0xF800FFFF = 0#21 ++ c.dpZs := by
  change c.zoneWord &&& (0x1F#5 ++ 0#11 ++ 0x1F#5 ++ BitVec.allOnes 11) = _
  rw [CfgRegs.zoneWord, BitVec.and_append]
  simp only [BitVec.and_append, BitVec.zero_and, BitVec.and_zero, BitVec.and_allOnes]
  rfl

theorem writeReg_dpZs (s : State) (v : Word) {r : Reg} (hr : r ≠ .dpZone) : (s.writeReg v r).cfg.dpZs = s.cfg.dpZs := by
  cases r with
  | dpZone => exact absurd rfl hr
  | _ => rfl

theorem readReg_writeReg_of_ne (s : State) (v : Word) {r r' : Reg} (hcmd : r ≠ .cmd) (hne : r' ≠ r)
    (hview : r' ∉ [.frameLen, .vcduId, .vcduVc, .vcduEnc, .mpdu]) (hzone : r' ≠ .dpZone) :
    (s.writeReg v r).readReg r' = s.readReg r' := by
  cases r' with
  | frameLen | vcduId | vcduVc | vcduEnc | mpdu => simp at hview
  | dpZone => exact absurd rfl hzone
  | apid k' =>
    cases r with
    | apid k =>
      have hk : k.val ≠ k'.val := fun h => hne (congrArg Reg.apid (Fin.ext h).symm)
      exact congrArg ApidEntry.toWord (Vector.getElem_set_ne k.isLt k'.isLt hk)
    | _ => rfl
  | _ =>
    cases r
    all_goals try exact absurd rfl hne
    all_goals try exact absurd rfl hcmd
    all_goals rfl

theorem writeReg_scratch (s : State) (v : Word) (r : Reg) : (s.writeReg v r).rs.scratch = s.rs.scratch := by
  cases r <;> rfl

/-- `STATUS` is W1C in `DONE` and `ERR` (R34). -/
theorem writeReg_status (s : State) (v : Word) : s.writeReg v .status =
    { s with status := { s.status with done := if v.getLsbD 1 then false else s.status.done,
                                       err := if v.getLsbD 2 then false else s.status.err } } := by
  simp only [State.writeReg, Status.acknowledge]
  cases v.getLsbD 1 <;> cases v.getLsbD 2 <;> simp

/-- `IN_LEN` reads the clamped count (R42). -/
theorem readReg_writeReg_inLen (s : State) (v : Word) :
    (s.writeReg v .inLen).readReg .inLen = BitVec.ofNat 32 (min (v.toNat % 131072) 65536) := by
  apply BitVec.eq_of_toNat_eq
  simp only [State.readReg, State.writeReg, clampInLen, Config.inSize, BitVec.toNat_setWidth, BitVec.toNat_ofNat,
    BitVec.extractLsb'_toNat, Nat.shiftRight_zero]
  omega

/-- Settles O56: read-back by the bits of the RW mask, independence register by register, the fields by their words. -/
theorem registerWritesReadBack : Obligations.RegisterWritesReadBack := by
  refine ⟨fun s v r hcmd hstatus hlen => ⟨readReg_writeReg_same s v hcmd hstatus hlen,
      writeReg_of_rwBits_zero s v hcmd hstatus hlen⟩, fun s v r r' hcmd hne hview => ⟨?_, writeReg_mem s v r,
      writeReg_scratch s v r⟩, configReads_toNat, fun s k => apidEntry_toNat _, writeReg_status,
    readReg_writeReg_inLen, fun s w => ⟨rfl, rfl⟩⟩
  by_cases hzone : r' = .dpZone
  · subst hzone
    simp only [if_true, State.readReg, zoneWord_and, writeReg_dpZs s v hne.symm]
  · simp only [readReg_writeReg_of_ne s v hcmd hne hview hzone]

end Sys2Proof.Proofs
end

section
/-! PROOF. The address map (R101) and what an access to a mapped word does: where each register and window lies, when an
address is mapped, and the three ends of an access (R100). -/

namespace Sys2Proof.Proofs
open Sys2Proof.Machine Sys2Proof.Claims

/-! ### The registers (R32 to R67) -/

theorem mem_regAll (r : Reg) : r ∈ Reg.all := by
  cases r <;> simp [Reg.all, Reg.low, Reg.middle, Reg.high]

/-- The registers are word-aligned, and the last lies at 0x100 (R67). -/
theorem offset_bounds (r : Reg) : r.offset % 4 = 0 ∧ r.offset ≤ 0x100 := by
  have h : ∀ r ∈ Reg.all, r.offset % 4 = 0 ∧ r.offset ≤ 0x100 := by decide
  exact h r (mem_regAll r)

/-- No two registers share an offset. -/
theorem ofOffset_offset (r : Reg) : Reg.ofOffset r.offset = some r := by
  have h : ∀ r ∈ Reg.all, Reg.ofOffset r.offset = some r := by decide
  exact h r (mem_regAll r)

theorem ofOffset_above {a : Nat} (h : 0x100 < a) : Reg.ofOffset a = none :=
  List.find?_eq_none.mpr fun r _ hr => by
    have := (offset_bounds r).2
    have := of_decide_eq_true hr
    omega

/-- The gaps between the registers have none (R101). -/
theorem ofOffset_eq_none_iff {a : Nat} (h4 : a % 4 = 0) :
    Reg.ofOffset a = none ↔ ∀ r ∈ mapRanges.take 4, ¬ (r.1 ≤ a ∧ a ≤ r.2) := by
  by_cases ha : a ≤ 0x100
  · have h : ∀ k < 65, Reg.ofOffset (4 * k) = none ↔ ∀ r ∈ mapRanges.take 4, ¬ (r.1 ≤ 4 * k ∧ 4 * k ≤ r.2) := by
      decide
    have := h (a / 4) (by omega)
    rwa [show 4 * (a / 4) = a by omega] at this
  · refine iff_of_true (ofOffset_above (by omega)) ?_
    simp only [mapRanges, List.take, List.forall_mem_cons]
    exact ⟨by omega, by omega, by omega, by omega, fun _ h => nomatch h⟩

/-! ### The windows (R101) -/

/-- The first address of each scratch window (R101). -/
def scratchBase : ScratchArray → Nat
  | .syn => 0x800
  | .sigma => 0x840
  | .omega => 0x880
  | .loc => 0x8C0
  | .mag => 0x900

/-- The first address of each table window: an antilog table with its logarithm table behind it (R101). -/
def romBase : RomTable → Nat
  | .alog basis => if basis then 0xE00 else 0xC00
  | .log basis => (if basis then 0xE00 else 0xC00) + 0x100

theorem scratch_aligned (x : ScratchArray) {off : Nat} (h4 : off % 4 = 0) : (scratchBase x + off) % 4 = 0 := by
  have hx : scratchBase x % 4 = 0 := by cases x <;> rfl
  omega

theorem rom_aligned (x : RomTable) {off : Nat} (h4 : off % 4 = 0) : (romBase x + off) % 4 = 0 := by
  have hx : romBase x % 4 = 0 := by rcases x with basis | basis <;> cases basis <;> rfl
  omega

/-- In a list of windows of `n` bytes that do not overlap, an address is found in the window it lies in. -/
theorem find_window {α : Type} {n off b : Nat} {x : α} (hoff : off < n) : ∀ {ws : List (Nat × α)},
    ws.Pairwise (fun v w => v.1 + n ≤ w.1) → (b, x) ∈ ws →
      ws.find? (fun w => decide (w.1 ≤ b + off ∧ b + off < w.1 + n)) = some (b, x)
  | w :: ws, hp, hm => by
    obtain ⟨hlt, hp⟩ := List.pairwise_cons.mp hp
    rcases List.mem_cons.mp hm with rfl | hm
    · exact List.find?_cons_of_pos (decide_eq_true (by omega))
    · have := hlt _ hm
      rw [List.find?_cons_of_neg (by rw [decide_eq_true_eq]; omega)]
      exact find_window hoff hp hm

theorem ofAddr_reg (r : Reg) : Target.ofAddr r.offset = some (.reg r) := by
  simp only [Target.ofAddr, ofOffset_offset]

theorem ofAddr_scratch (x : ScratchArray) {off : Nat} (h : off < 64) :
    Target.ofAddr (scratchBase x + off) = some (.scratch x off) := by
  have hx : (scratchBase x, x) ∈ scratchWindows ∧ 0x100 < scratchBase x := by cases x <;> decide
  simp only [Target.ofAddr, ofOffset_above (show 0x100 < scratchBase x + off by omega),
    find_window h (by decide) hx.1, Nat.add_sub_cancel_left]

theorem find_scratch_none {a : Nat} (h : 0x940 ≤ a) :
    (scratchWindows.find? fun w => decide (w.1 ≤ a ∧ a < w.1 + 64)) = none := by
  simp only [scratchWindows, List.find?_eq_none, List.forall_mem_cons, decide_eq_true_eq]
  exact ⟨by omega, by omega, by omega, by omega, by omega, fun _ h => nomatch h⟩

theorem find_rom_none {a : Nat} (h : 0x1000 ≤ a) :
    (romWindows.find? fun w => decide (w.1 ≤ a ∧ a < w.1 + 256)) = none := by
  simp only [romWindows, List.find?_eq_none, List.forall_mem_cons, decide_eq_true_eq]
  exact ⟨by omega, by omega, by omega, by omega, fun _ h => nomatch h⟩

theorem ofAddr_rom (x : RomTable) {off : Nat} (h : off < 256) :
    Target.ofAddr (romBase x + off) = some (.rom x off) := by
  have hx : (romBase x, x) ∈ romWindows ∧ 0xC00 ≤ romBase x := by
    rcases x with basis | basis <;> cases basis <;> decide
  simp only [Target.ofAddr, ofOffset_above (show 0x100 < romBase x + off by omega),
    find_scratch_none (show 0x940 ≤ romBase x + off by omega), find_window h (by decide) hx.1,
    Nat.add_sub_cancel_left]

theorem ramAddr_iff (a : Nat) : ramAddr a = true ↔ RamByte a := by
  simp only [ramAddr, inFbWindow, inInWindow, inSlWindow, fbBase, inBase, slBase, Config.fbSize, Config.inSize,
    Config.slCells, Bool.or_eq_true, decide_eq_true_eq]
  omega

theorem ofAddr_ram {a : Nat} (h : RamByte a) : Target.ofAddr a = some (.ram a) := by
  simp only [Target.ofAddr, ofOffset_above (show 0x100 < a by omega), find_scratch_none (show 0x940 ≤ a by omega),
    find_rom_none (show 0x1000 ≤ a by omega), (ramAddr_iff a).mpr h, if_true]

/-- Nothing lies at an address that none of the four maps holds. -/
theorem ofAddr_eq_none {a : Nat} : Target.ofAddr a = none ↔ Reg.ofOffset a = none ∧
    (scratchWindows.find? fun w => decide (w.1 ≤ a ∧ a < w.1 + 64)) = none ∧
      (romWindows.find? fun w => decide (w.1 ≤ a ∧ a < w.1 + 256)) = none ∧ ¬ ramAddr a = true := by
  unfold Target.ofAddr
  split
  · next h => simp only [h, reduceCtorEq, false_and]
  · next hreg =>
    split
    · next h => simp only [h, reduceCtorEq, false_and, and_false]
    · next hscratch =>
      split
      · next h => simp only [h, reduceCtorEq, false_and, and_false]
      · next hrom =>
        simp only [hreg, hscratch, hrom, true_and]
        split
        · next h => simp only [h, reduceCtorEq, not_true]
        · next h => simp only [h, iff_self, not_false_eq_true, Bool.false_eq_true]

/-- The word addresses at which something lies are those of R101's table. -/
theorem ofAddr_eq_none_iff {a : Nat} (h4 : a % 4 = 0) : Target.ofAddr a = none ↔ ¬ Mapped a := by
  rw [ofAddr_eq_none, ofOffset_eq_none_iff h4, ramAddr_iff]
  simp only [List.find?_eq_none, decide_eq_true_eq, scratchWindows, romWindows, Mapped, mapRanges, List.take,
    List.forall_mem_cons, not_exists, not_and, List.not_mem_nil, false_imp_iff, implies_true, and_true]
  omega

/-- A register is mapped at its own offset only. -/
theorem ofAddr_reg_offset {a : Nat} {r : Reg} (h : Target.ofAddr a = some (.reg r)) : r.offset = a := by
  unfold Target.ofAddr at h
  split at h
  · next r' hr => cases h; exact Reg.offset_of_ofOffset hr
  · split at h
    · cases h
    · split at h
      · cases h
      · split at h <;> cases h

/-- Every mapped address is a 32-bit bus address. -/
theorem mapped_lt {a : Nat} (h : Mapped a) : a < 2 ^ 32 := by
  have hr : ∀ r ∈ mapRanges, r.2 < 2 ^ 32 := by decide
  obtain ⟨r, hm, -, ha⟩ := h
  exact ha.trans_lt (hr r hm)

/-! ### One access (R100) -/

theorem goodAccess_target {a : Word} {n : Nat} (h : GoodAccess a n) :
    n = 4 ∧ a.toNat % 4 = 0 ∧ ∃ x, Target.ofAddr a.toNat = some x := by
  obtain ⟨hn, h4, hm⟩ := h
  refine ⟨hn, h4, Option.ne_none_iff_exists'.mp fun hnone => ?_⟩
  exact (ofAddr_eq_none_iff h4).mp hnone hm

/-- A bad access fails the width, the alignment or the map (R103 to R105). -/
theorem checkAccess_bad {a : Word} {n : Nat} (h : ¬ GoodAccess a n) (s : State) (isRead : Bool) :
    s.checkAccess isRead a n = .hostBus := by
  unfold State.checkAccess
  split
  · rfl
  · next hw =>
    obtain ⟨hn, h4⟩ := not_or.mp hw
    have hnone := (ofAddr_eq_none_iff (not_not.mp h4)).mpr fun hm => h ⟨not_not.mp hn, not_not.mp h4, hm⟩
    rw [hnone]

/-- A good access is performed unless a command is pending and it is not a read of `STATUS` (R520). -/
theorem checkAccess_mapped {a : Word} {x : Target} (h4 : a.toNat % 4 = 0) (hx : Target.ofAddr a.toNat = some x)
    (s : State) (isRead : Bool) : s.checkAccess isRead a 4 =
      if s.status.busy && !(isRead && decide (x = .reg .status)) then .hazard else .perform x := by
  simp only [State.checkAccess, hx, h4, ne_eq, not_true, or_self, if_false]

/-- A read has no effect but a mark and its answer (R109). -/
theorem memRead_frame (s : State) (a : Word) (n : Nat) : s.memRead a n =
    { s with hazard := (s.memRead a n).hazard, hostBus := (s.memRead a n).hostBus,
             busData := (s.memRead a n).busData, freeCount := (s.memRead a n).freeCount } := by
  rcases memRead_cases s a n with ⟨-, h⟩ | ⟨-, h⟩ | ⟨t, -, h⟩
  · rw [h]
  · rw [h]
  · rw [h]
    split <;> rfl

section
variable {s : State} {a : Word} {n : Nat}

theorem memWrite_hostBus (h : s.checkAccess false a n = .hostBus) (v : Word) :
    s.memWrite a n v = { s with hostBus := true } := by
  rw [State.memWrite, h]

theorem memWrite_hazard (h : s.checkAccess false a n = .hazard) (v : Word) :
    s.memWrite a n v = { s with hazard := true } := by
  rw [State.memWrite, h]

theorem memWrite_perform {x : Target} (h : s.checkAccess false a n = .perform x) (v : Word) :
    s.memWrite a n v = s.writeTarget v x := by
  rw [State.memWrite, h]

theorem memRead_hostBus (h : s.checkAccess true a n = .hostBus) :
    s.memRead a n = ({ s with hostBus := true } : State).returnFree := by
  rw [State.memRead, h]

theorem memRead_hazard (h : s.checkAccess true a n = .hazard) :
    s.memRead a n = ({ s with hazard := true } : State).returnFree := by
  rw [State.memRead, h]

theorem memRead_perform {x : Target} (h : s.checkAccess true a n = .perform x) (hz : s.hazard = false)
    (hh : s.hostBus = false) : s.memRead a n = { s with busData := s.readTarget x } := by
  simp [State.memRead, h, State.returnValue, hz, hh]

end

section
variable {s : State} {a : Word} {x : Target} (h4 : a.toNat % 4 = 0) (hx : Target.ofAddr a.toNat = some x)
include h4 hx

theorem memWrite_idle (hb : s.status.busy = false) (v : Word) : s.memWrite a 4 v = s.writeTarget v x :=
  memWrite_perform (by rw [checkAccess_mapped h4 hx, hb]; rfl) v

theorem memRead_mapped (hb : s.status.busy = false ∨ x = .reg .status) (hz : s.hazard = false)
    (hh : s.hostBus = false) : s.memRead a 4 = { s with busData := s.readTarget x } := by
  refine memRead_perform ?_ hz hh
  rw [checkAccess_mapped h4 hx]
  rcases hb with hb | rfl
  · rw [hb]; rfl
  · simp

end

/-- Settles O52: a bad access fails R100's first checks, and a good one fails only the check of `BUSY`, which a read of
`STATUS` passes. -/
theorem faultingAccessSetsOnlyItsMark : Obligations.FaultingAccessSetsOnlyItsMark := by
  intro s a v n
  refine ⟨fun hbad => ⟨memWrite_hostBus (checkAccess_bad hbad s false) v, ?_⟩, fun hgood hbusy => ?_,
    fun hgood hidle hz hh => ?_⟩
  · rw [memRead_hostBus (checkAccess_bad hbad s true)]
    rfl
  · obtain ⟨rfl, h4, x, hx⟩ := goodAccess_target hgood
    refine ⟨memWrite_hazard (by rw [checkAccess_mapped h4 hx, hbusy]; rfl) v, fun ha => ?_⟩
    have hne : x ≠ .reg .status := by
      rintro rfl
      exact ha (BitVec.eq_of_toNat_eq (ofAddr_reg_offset hx).symm)
    rw [memRead_hazard (by simp [checkAccess_mapped h4 hx, hbusy, hne])]
    rfl
  · obtain ⟨rfl, h4, x, hx⟩ := goodAccess_target hgood
    have hstatus : a = 0x008 → x = .reg .status := by
      rintro rfl
      exact Option.some.inj (hx.symm.trans (ofAddr_reg .status))
    rw [memRead_mapped h4 hx (hidle.imp_right hstatus) hz hh]

/-! ### Accesses by a number (R101) -/

/-- An idle host with no mark set: its good accesses are performed and its reads return values (R100, R520). -/
structure BusClear (s : State) : Prop where
  idle : s.status.busy = false
  hazard : s.hazard = false
  hostBus : s.hostBus = false

theorem toNat_addr {a : Nat} {x : Target} (h4 : a % 4 = 0) (hx : Target.ofAddr a = some x) :
    (BitVec.ofNat 32 a).toNat = a := by
  have hm : Mapped a := by
    by_contra hm
    rw [(ofAddr_eq_none_iff h4).mpr hm] at hx
    cases hx
  exact Nat.mod_eq_of_lt (mapped_lt hm)

theorem BusClear.memRead {s : State} (hs : BusClear s) {a : Nat} {x : Target} (h4 : a % 4 = 0)
    (hx : Target.ofAddr a = some x) : s.memRead (BitVec.ofNat 32 a) 4 = { s with busData := s.readTarget x } := by
  have ha := toNat_addr h4 hx
  exact memRead_mapped (by rwa [ha]) (by rwa [ha]) (.inl hs.idle) hs.hazard hs.hostBus

theorem BusClear.memWrite {s : State} (hs : BusClear s) {a : Nat} {x : Target} (h4 : a % 4 = 0)
    (hx : Target.ofAddr a = some x) (v : Word) : s.memWrite (BitVec.ofNat 32 a) 4 v = s.writeTarget v x := by
  have ha := toNat_addr h4 hx
  exact memWrite_idle (by rwa [ha]) (by rwa [ha]) hs.idle v

/-- R600's list of offsets is the model's. -/
theorem registerOffsets_offset : ∀ x ∈ registerOffsets, x.1 = x.2.offset := by decide

/-- `BUSY` is bit 0 of `STATUS` (R34). -/
theorem statusWord_busy (s : State) : s.statusWord.getLsbD 0 = s.status.busy :=
  (statusAndResultRegistersShowState.1 s).1

/-- Settles O58: each register's offset is mapped to it, and a read of `STATUS` is performed while a command is
pending. -/
theorem registersLieAtTheirOffsets : Obligations.RegistersLieAtTheirOffsets := by
  refine ⟨fun s v hb hz hh x hx => ?_, fun s hz hh => ?_⟩
  · have hs : BusClear s := ⟨hb, hz, hh⟩
    have h4 := (offset_bounds x.2).1
    rw [registerOffsets_offset x hx]
    exact ⟨hs.memRead h4 (ofAddr_reg x.2), hs.memWrite h4 (ofAddr_reg x.2) v⟩
  · have hread : s.memRead 0x008 4 = { s with busData := s.readReg .status } :=
      memRead_mapped (x := .reg .status) rfl (ofAddr_reg .status) (.inr rfl) hz hh
    exact ⟨hread, hread ▸ statusWord_busy s⟩

end Sys2Proof.Proofs
end

section
/-! PROOF. A pending command (R500, R630): every host access made while it is pending leaves the CORE's state alone and
lowers the drawn delay, so the CORE's step comes and completes it. -/

namespace Sys2Proof.Proofs
open Sys2Proof.Machine

/-! ### Host accesses while a command is pending -/

/-- While a command is pending no write is performed: each sets a mark (R104, R520). -/
theorem memWrite_busy {s : State} (hb : s.status.busy = true) (a : Word) (n : Nat) (v : Word) :
    s.memWrite a n v = { s with hostBus := true } ∨ s.memWrite a n v = { s with hazard := true } := by
  rcases memWrite_cases s a n v with ⟨-, h⟩ | ⟨-, h⟩ | ⟨x, hx, -⟩
  · exact .inl h
  · exact .inr h
  · obtain ⟨-, -, -, hread⟩ := checkAccess_perform hx
    cases (hread hb).1

/-- A host access made while a command is pending changes no state of the CORE and is one of those the delay counts. -/
theorem hostStep_busy {s : State} (hb : s.status.busy = true) (op : HostOp) (rest : List HostOp) :
    BusFrame s (hostStep op rest s) ∧ (hostStep op rest s).delay = s.delay - 1 := by
  have htaken : BusFrame s { s with host := rest, delay := s.delay - 1 } := ⟨rfl, id, id⟩
  cases op with
  | read a n =>
    refine ⟨htaken.trans (busFrame_memRead _ a n), ?_⟩
    rw [hostStep, memRead_frame]
  | write a n v =>
    rw [hostStep]
    rcases memWrite_busy (s := { s with host := rest, delay := s.delay - 1 }) hb a n v with h | h
    · rw [h]; exact ⟨⟨rfl, id, fun _ => rfl⟩, rfl⟩
    · rw [h]; exact ⟨⟨rfl, fun _ => rfl, id⟩, rfl⟩
  | wait =>
    have hread := htaken.trans (busFrame_memRead _ 0x008 4)
    simp only [hostStep]
    split
    · refine ⟨hread.trans ⟨rfl, id, id⟩, ?_⟩
      rw [memRead_frame]
    · refine ⟨hread, ?_⟩
      rw [memRead_frame]

/-! ### The CORE's step -/

/-- The pending command's execution always completes it: `BUSY` falls and `DONE` rises (R503). -/
theorem runPending_completes (s : State) :
    ∃ t, runPending s = .next t ∧ t.status.busy = false ∧ t.status.done = true := by
  unfold runPending
  split
  · next i _ =>
    rw [exec_eq]
    obtain ⟨t, ht⟩ := runCommand_next (checksOf i s) (bodyOf i) s
    rcases runCommand_cases ht with ⟨code, -, rfl⟩ | ⟨-, rfl⟩ <;> exact ⟨_, ht, rfl, rfl⟩
  · exact ⟨_, rfl, rfl, rfl⟩

theorem step_core {s : State} (h : s.turn = .core) : step s = runPending s := by
  unfold step
  rw [h]

/-- The CORE's turn comes after at most `delay` host accesses, with the CORE's state as it was (R630). -/
theorem run_until_core : ∀ (d : Nat) {s : State}, s.delay = d → s.status.busy = true →
    ∃ n ≤ d, ∃ u, Sys2Proof.core.run n s = .next u ∧ BusFrame s u ∧ u.turn = .core
  | 0, s, hd, hb => ⟨0, Nat.le_refl 0, s, rfl, ⟨rfl, id, id⟩, turn_core hb (.inr hd)⟩
  | d + 1, s, hd, hb => by
    cases ho : s.host with
    | nil => exact ⟨0, Nat.zero_le _, s, rfl, ⟨rfl, id, id⟩, turn_core hb (.inl ho)⟩
    | cons op rest =>
      have hstep : step s = .next (hostStep op rest s) := step_host ho (.inr (by omega))
      obtain ⟨hframe, hdelay⟩ := hostStep_busy hb op rest
      have hbusy : (hostStep op rest s).status.busy = true := by rw [hframe.rest]; exact hb
      obtain ⟨n, hn, u, hrun, hu, hturn⟩ := run_until_core d (by omega) hbusy
      exact ⟨n + 1, by omega, u, (core_run_succ n hstep).trans hrun, hframe.trans hu, hturn⟩

/-- Settles O9, by induction on the delay: each host access lowers it and leaves the CORE's state alone, until the CORE's
turn, whose step completes the command. -/
theorem issuedCommandCompletes : Obligations.IssuedCommandCompletes := by
  intro s hb
  obtain ⟨n, hn, u, hrun, hframe, hturn⟩ := run_until_core s.delay rfl hb
  obtain ⟨t, ht, hbusy, hdone⟩ := runPending_completes u
  exact ⟨n, hn, u, hrun, hframe.rest, t, (step_core hturn).trans ht, ht, hbusy, hdone⟩

end Sys2Proof.Proofs
end

section
/-! PROOF. The windows (R102, R107, R108, R112): a word access moves the four bytes from its address up, in the RAM, the
scratch arrays and the tables. -/

namespace Sys2Proof.Proofs
open Sys2Proof.Machine Sys2Proof.Claims

/-! ### Words of bytes (R102) -/

theorem toNat_wordByte (v : Word) (k : Nat) : (wordByte v k).toNat = v.toNat / 2 ^ (8 * k) % 256 := by
  rw [wordByte, BitVec.extractLsb'_toNat, Nat.shiftRight_eq_div_pow]

theorem toNat_wordOf (f : Nat → Byte) (i : Nat) : (wordOf f i).toNat =
    (f i).toNat + 256 * (f (i + 1)).toNat + 65536 * ((f (i + 2)).toNat + 256 * (f (i + 3)).toNat) := by
  simp only [wordOf, le32, toNat_append_add]
  omega

/-- The bytes of a word in their places are the word. -/
theorem wordOf_eq {f : Nat → Byte} {i : Nat} {v : Word} (h : ∀ k < 4, f (i + k) = wordByte v k) : wordOf f i = v := by
  have hbyte (k : Nat) (hk : k < 4) : (f (i + k)).toNat = v.toNat / 2 ^ (8 * k) % 256 := by
    rw [h k hk, toNat_wordByte]
  have h0 := hbyte 0 (by omega)
  have h1 := hbyte 1 (by omega)
  have h2 := hbyte 2 (by omega)
  have h3 := hbyte 3 (by omega)
  apply BitVec.eq_of_toNat_eq
  rw [toNat_wordOf]
  simp only [Nat.add_zero] at h0
  have := v.isLt
  omega

theorem extractLsb'_wordOf (f : Nat → Byte) (i : Nat) {k : Nat} (hk : k < 4) :
    (wordOf f i).extractLsb' (8 * k) 8 = f (i + k) := by
  apply BitVec.eq_of_toNat_eq
  rw [BitVec.extractLsb'_toNat, Nat.shiftRight_eq_div_pow, toNat_wordOf]
  have := (f i).isLt
  have := (f (i + 1)).isLt
  have := (f (i + 2)).isLt
  have := (f (i + 3)).isLt
  match k, hk with
  | 0, _ => rw [Nat.add_zero i]; omega
  | 1, _ | 2, _ | 3, _ => omega

/-! ### The RAM windows (R107, R108) -/

/-- The bytes `f 0 .. f (n-1)` stored from an address up. -/
def storeBytes (s : State) (a : Nat) (f : Nat → Byte) (n : Nat) : State :=
  (List.range n).foldl (fun s k => s.setByte (a + k) (f k)) s

theorem writeTarget_ram (s : State) (v : Word) (a : Nat) :
    s.writeTarget v (.ram a) = storeBytes s a (wordByte v) 4 := rfl

theorem memOnly_storeBytes (s : State) (a : Nat) (f : Nat → Byte) (n : Nat) : s.MemOnly (storeBytes s a f n) :=
  foldl_memOnly (fun s _ => s.memOnly_setByte _ _) _ s

theorem storeBytes_succ (s : State) (a : Nat) (f : Nat → Byte) (n : Nat) :
    storeBytes s a f (n + 1) = (storeBytes s a f n).setByte (a + n) (f n) := by
  simp [storeBytes, List.range_succ]

theorem byteAt_storeBytes (s : State) (a : Nat) (f : Nat → Byte) (n b : Nat) :
    (storeBytes s a f n).byteAt b = if a ≤ b ∧ b < a + n then f (b - a) else s.byteAt b := by
  induction n with
  | zero => exact (if_neg (by omega)).symm
  | succ n ih =>
    rw [storeBytes_succ, State.byteAt_setByte, ih]
    by_cases hb : a + n = b
    · rw [if_pos hb, if_pos (by omega), show b - a = n by omega]
    · rw [if_neg hb]
      exact if_congr (by omega) rfl rfl

/-- A cell of `SL` is its two bytes, low byte first (R108). -/
theorem toNat_sl (s : State) (i : Nat) :
    (s.sl i).toNat = (s.byteAt (0x20000 + 2 * i)).toNat + 256 * (s.byteAt (0x20000 + 2 * i + 1)).toNat := by
  simp only [State.sl, toNat_append_add, slBase]
  omega

/-- A word of the `SL` window is two cells (R108). -/
theorem toNat_wordOf_sl (s : State) (k : Nat) :
    (wordOf s.byteAt (0x20000 + 4 * k)).toNat = (s.sl (2 * k)).toNat + 65536 * (s.sl (2 * k + 1)).toNat := by
  rw [toNat_wordOf, toNat_sl, toNat_sl, show 0x20000 + 2 * (2 * k) = 0x20000 + 4 * k by omega,
    show 0x20000 + 2 * (2 * k + 1) = 0x20000 + 4 * k + 2 by omega]

/-- Settles O54: the four bytes of a RAM write are stored one by one, and a read puts them together again. -/
theorem ramWordReadsBack : Obligations.RamWordReadsBack := by
  refine ⟨fun s i => ⟨rfl, rfl, toNat_sl s i⟩, fun s k hk hb hz hh => ?_, fun s a v h4 ha hb hz hh => ?_⟩
  · have hs : BusClear s := ⟨hb, hz, hh⟩
    rw [hs.memRead (by omega) (ofAddr_ram (by omega))]
    exact toNat_wordOf_sl s k
  · have hx := ofAddr_ram ha
    have hbyte (b : Nat) := byteAt_storeBytes s a.toNat (wordByte v) 4 b
    have hmem := memOnly_storeBytes s a.toNat (wordByte v) 4
    have hin (k : Nat) (hk : k < 4) :
        (storeBytes s a.toNat (wordByte v) 4).byteAt (a.toNat + k) = wordByte v k := by
      rw [hbyte, if_pos (by omega), Nat.add_sub_cancel_left]
    rw [memWrite_idle h4 hx hb, writeTarget_ram]
    refine ⟨hmem, fun k hk => ?_, fun b hout => ?_, ?_⟩
    · rw [hin k hk, toNat_wordByte]
    · rw [hbyte, if_neg (by omega)]
    · rw [memRead_mapped h4 hx (.inl (by rw [hmem]; exact hb)) (by rw [hmem]; exact hz) (by rw [hmem]; exact hh)]
      exact wordOf_eq hin

/-! ### The scratch windows (R83, R107) -/

/-- The length of each scratch array (R83). -/
def scratchSize : ScratchArray → Nat
  | .sigma => 34
  | .syn | .omega | .loc | .mag => 32

/-- The row of `scratchTable` for an array. -/
def scratchRow (x : ScratchArray) : Nat × Nat × (State → Nat → Byte) :=
  (scratchBase x, scratchSize x, fun s i => s.rs.scratch.byte x i)

theorem scratchTable_eq : scratchTable = [.syn, .sigma, .omega, .loc, .mag].map scratchRow := rfl

theorem mem_scratchTable {y : Nat × Nat × (State → Nat → Byte)} (h : y ∈ scratchTable) : ∃ x, y = scratchRow x := by
  rw [scratchTable_eq] at h
  obtain ⟨x, -, rfl⟩ := List.mem_map.mp h
  exact ⟨x, rfl⟩

theorem scratchBase_inj {x y : ScratchArray} : scratchBase x = scratchBase y ↔ x = y := by
  cases x <;> cases y <;> decide

theorem vector_getD {n : Nat} (xs : Vector Byte n) (i : Nat) (d : Byte) : xs.getD i d = xs[i]?.getD d := by
  rw [Vector.getD, Array.getD_eq_getD_getElem?, Vector.getElem?_toArray]

theorem getD_of_le {n i : Nat} (xs : Vector Byte n) (h : n ≤ i) (d : Byte) : xs.getD i d = d := by
  rw [vector_getD, Vector.getElem?_eq_none h, Option.getD_none]

/-- An entry of an array after a store that may miss the array. -/
theorem getD_setIfInBounds {n : Nat} (xs : Vector Byte n) (i j : Nat) (v d : Byte) :
    (xs.setIfInBounds i v).getD j d = if i = j ∧ j < n then v else xs.getD j d := by
  rw [vector_getD, vector_getD, Vector.getElem?_setIfInBounds]
  by_cases hij : i = j
  · subst hij
    by_cases hi : i < n
    · simp [hi]
    · simp [hi]
  · simp [hij]

/-- The reserved bytes of a scratch window read 0 (R107). -/
theorem byte_reserved (y : Scratch) {x : ScratchArray} {i : Nat} (h : scratchSize x ≤ i) : y.byte x i = 0 := by
  cases x <;> exact getD_of_le _ h 0

theorem byte_setByte (y : Scratch) (x x' : ScratchArray) (i j : Nat) (v : Byte) :
    (y.setByte i v x).byte x' j = if x' = x ∧ i = j ∧ j < scratchSize x then v else y.byte x' j := by
  cases x <;> cases x' <;> simp [Scratch.byte, Scratch.setByte, getD_setIfInBounds, scratchSize]

/-- The bytes `f 0 .. f (n-1)` stored in a scratch window from an offset up. -/
def storeScratch (y : Scratch) (x : ScratchArray) (off : Nat) (f : Nat → Byte) (n : Nat) : Scratch :=
  (List.range n).foldl (fun y k => y.setByte (off + k) (f k) x) y

theorem writeTarget_scratch (s : State) (v : Word) (x : ScratchArray) (off : Nat) :
    s.writeTarget v (.scratch x off) = s.setScratch (storeScratch s.rs.scratch x off (wordByte v) 4) := rfl

theorem byte_storeScratch (y : Scratch) (x x' : ScratchArray) (off : Nat) (f : Nat → Byte) (n j : Nat) :
    (storeScratch y x off f n).byte x' j =
      if x' = x ∧ off ≤ j ∧ j < off + n ∧ j < scratchSize x then f (j - off) else y.byte x' j := by
  induction n with
  | zero => exact (if_neg (by omega)).symm
  | succ n ih =>
    have hsucc : storeScratch y x off f (n + 1) = (storeScratch y x off f n).setByte (off + n) (f n) x := by
      simp [storeScratch, List.range_succ]
    rw [hsucc, byte_setByte, ih]
    by_cases hx : x' = x
    · simp only [hx, true_and]
      by_cases hj : off + n = j
      · rw [show j - off = n by omega, if_neg (show ¬ (off ≤ j ∧ j < off + n ∧ j < scratchSize x) by omega)]
        exact if_congr (by omega) rfl rfl
      · rw [if_neg (by omega)]
        exact if_congr (by omega) rfl rfl
    · simp only [hx, false_and, if_false]

section
variable (s : State) (v : Word) (x : ScratchArray) (off : Nat)

/-- A word written to a scratch window: each of its bytes lands in the array or is dropped (R107). -/
theorem byte_writeTarget_scratch (x' : ScratchArray) (i : Nat) :
    (s.writeTarget v (.scratch x off)).rs.scratch.byte x' i =
      if x' = x ∧ off ≤ i ∧ i < off + 4 ∧ i < scratchSize x then wordByte v (i - off)
      else s.rs.scratch.byte x' i :=
  byte_storeScratch s.rs.scratch x x' off (wordByte v) 4 i

/-- An entry of an array after the write, its window named by the base. -/
theorem entry_writeTarget_scratch {x' : ScratchArray} {i : Nat} (hi : i < scratchSize x') :
    (s.writeTarget v (.scratch x off)).rs.scratch.byte x' i =
      if scratchBase x' = scratchBase x ∧ off ≤ i ∧ i < off + 4 then v.extractLsb' (8 * (i - off)) 8
      else s.rs.scratch.byte x' i := by
  rw [byte_writeTarget_scratch]
  refine if_congr ?_ rfl rfl
  rw [scratchBase_inj]
  refine and_congr_right fun h => ?_
  subst h
  omega

/-- The word reads back, its reserved bytes as 0 (R107). -/
theorem readTarget_writeTarget_scratch {k : Nat} (hk : k < 4) :
    ((s.writeTarget v (.scratch x off)).readTarget (.scratch x off)).extractLsb' (8 * k) 8 =
      if off + k < scratchSize x then v.extractLsb' (8 * k) 8 else 0 := by
  rw [State.readTarget, extractLsb'_wordOf _ _ hk, byte_writeTarget_scratch]
  by_cases hin : off + k < scratchSize x
  · rw [if_pos ⟨rfl, by omega, by omega, hin⟩, if_pos hin, Nat.add_sub_cancel_left]
    rfl
  · rw [if_neg fun h => hin h.2.2.2, if_neg hin]
    exact byte_reserved _ (Nat.not_lt.mp hin)

end

/-! ### The table windows (R84, R107) -/

/-- A word of a table window ignores the write and reads its four entries (R107). -/
theorem romWindow_access {s : State} (hs : BusClear s) (v : Word) (x : RomTable) {off k : Nat} (h4 : off % 4 = 0)
    (hoff : off < 256) (hk : k < 4) : s.memWrite (BitVec.ofNat 32 (romBase x + off)) 4 v = s ∧
      (s.memRead (BitVec.ofNat 32 (romBase x + off)) 4).busData.extractLsb' (8 * k) 8 = romByte x (off + k) := by
  have hx := ofAddr_rom x hoff
  rw [hs.memWrite (rom_aligned x h4) hx, hs.memRead (rom_aligned x h4) hx]
  exact ⟨rfl, extractLsb'_wordOf _ _ hk⟩

/-- Settles O55: the entries after a scratch write byte by byte, and the table windows' reads and ignored writes. -/
theorem scratchAndTableWindows : Obligations.ScratchAndTableWindows := by
  refine ⟨fun s v off h4 hoff hb hz hh row hrow => ?_, fun s v off h4 hoff hb hz hh basis k hk => ?_⟩
  · have hs : BusClear s := ⟨hb, hz, hh⟩
    obtain ⟨x, rfl⟩ := mem_scratchTable hrow
    have hx := ofAddr_scratch x hoff
    have ha := scratch_aligned x h4
    have ht : BusClear (s.writeTarget v (.scratch x off)) := ⟨hb, hz, hh⟩
    dsimp only [scratchRow]
    rw [hs.memWrite ha hx, ht.memRead ha hx]
    refine ⟨rfl, fun row' hrow' i hi => ?_, fun k hk => readTarget_writeTarget_scratch s v x off hk⟩
    obtain ⟨y, rfl⟩ := mem_scratchTable hrow'
    exact entry_writeTarget_scratch s v x off hi
  · have hs : BusClear s := ⟨hb, hz, hh⟩
    obtain ⟨halogWrite, halogRead⟩ := romWindow_access hs v (.alog basis) h4 hoff hk
    obtain ⟨hlogWrite, hlogRead⟩ := romWindow_access hs v (.log basis) h4 hoff hk
    exact ⟨halogWrite, hlogWrite, halogRead, hlogRead⟩

end Sys2Proof.Proofs
end

section
/-! PROOF. Repeated accesses (R109): a second identical write outside `CMD` finds its bytes and fields stored already. -/

namespace Sys2Proof.Proofs
open Sys2Proof.Machine

/-! ### Stores that are stored already -/

/-- A loop over different places does nothing the second time: each of its stores leaves what it stored, and a later
one keeps what an earlier one stored. -/
theorem foldl_range_idem {β : Type} {g : β → Nat → β} (hself : ∀ b k, g (g b k) k = g b k)
    (hkeep : ∀ b k j, k < j → g b k = b → g (g b j) k = g b j) (n : Nat) (b : β) :
    (List.range n).foldl g ((List.range n).foldl g b) = (List.range n).foldl g b := by
  have hstored : ∀ n, ∀ k < n, g ((List.range n).foldl g b) k = (List.range n).foldl g b := by
    intro n
    induction n with
    | zero => intro k hk; omega
    | succ n ih =>
      intro k hk
      rw [List.range_succ, List.foldl_append, List.foldl_cons, List.foldl_nil]
      rcases Nat.lt_succ_iff_lt_or_eq.mp hk with hlt | rfl
      · exact hkeep _ k n hlt (ih k hlt)
      · exact hself _ k
  refine foldl_keeps (P := fun c => c = (List.range n).foldl g b) _ _ (fun c k hk hc => ?_) rfl
  rw [hc]
  exact hstored n k (List.mem_range.mp hk)

theorem store_store_same (m : Memory) (a : Nat) (v : Byte) : (m.store a v).store a v = m.store a v := by
  induction m with
  | nil => simp [Memory.store]
  | cons cell m ih =>
    obtain ⟨k, w⟩ := cell
    rcases Nat.lt_trichotomy a k with h | rfl | h
    · simp [Memory.store, h]
    · simp [Memory.store]
    · simp [Memory.store, Nat.not_lt_of_gt h, Nat.ne_of_gt h, ih]

/-- A byte stored already stays stored when one above it is stored. -/
theorem store_keeps_stored {a b : Nat} (hab : a < b) (v w : Byte) : ∀ {m : Memory}, m.store a v = m →
    (m.store b w).store a v = m.store b w
  | [], h => by simp [Memory.store] at h
  | (k, x) :: m, h => by
    rcases Nat.lt_trichotomy a k with hak | rfl | hka
    · have := congrArg List.length h
      simp [Memory.store, hak] at this
    · have hx : v = x := by simpa [Memory.store] using h
      simp [Memory.store, Nat.not_lt_of_gt hab, Nat.ne_of_gt hab, hx]
    · have hm : Memory.store m a v = m := by
        simpa [Memory.store, Nat.not_lt_of_gt hka, Nat.ne_of_gt hka] using h
      have hkb := hka.trans hab
      simp [Memory.store, Nat.not_lt_of_gt hka, Nat.ne_of_gt hka, Nat.not_lt_of_gt hkb, Nat.ne_of_gt hkb,
        store_keeps_stored hab v w hm]

theorem setByte_eq_self_iff (s : State) (a : Nat) (v : Byte) : s.setByte a v = s ↔ s.mem.store a v = s.mem :=
  ⟨fun h => congrArg State.mem h, fun h => by rw [State.setByte, h]⟩

theorem setByte_scratch_same (y : Scratch) (i : Nat) (v : Byte) (x : ScratchArray) :
    (y.setByte i v x).setByte i v x = y.setByte i v x := by
  cases x <;> simp [Scratch.setByte]

theorem setIfInBounds_comm {n i j : Nat} (h : i ≠ j) (xs : Vector Byte n) (v w : Byte) :
    (xs.setIfInBounds i v).setIfInBounds j w = (xs.setIfInBounds j w).setIfInBounds i v := by
  ext k hk
  simp only [Vector.getElem_setIfInBounds]
  by_cases hi : i = k
  · have hj : j ≠ k := hi ▸ h.symm
    simp [hi, hj]
  · simp [hi]

theorem setByte_scratch_comm (y : Scratch) {i j : Nat} (h : i ≠ j) (v w : Byte) (x : ScratchArray) :
    (y.setByte i v x).setByte j w x = (y.setByte j w x).setByte i v x := by
  cases x <;> simp only [Scratch.setByte, setIfInBounds_comm h]

theorem storeBytes_twice (s : State) (a : Nat) (f : Nat → Byte) (n : Nat) :
    storeBytes (storeBytes s a f n) a f n = storeBytes s a f n := by
  refine foldl_range_idem (fun s k => ?_) (fun s k j hkj hk => ?_) n s
  · rw [setByte_eq_self_iff]
    exact store_store_same _ _ _
  · rw [setByte_eq_self_iff] at hk ⊢
    exact store_keeps_stored (by omega) _ _ hk

theorem storeScratch_twice (y : Scratch) (x : ScratchArray) (off : Nat) (f : Nat → Byte) (n : Nat) :
    storeScratch (storeScratch y x off f n) x off f n = storeScratch y x off f n := by
  refine foldl_range_idem (fun y k => setByte_scratch_same y _ _ x) (fun y k j hkj hk => ?_) n y
  rw [setByte_scratch_comm y (by omega), hk]

/-! ### Repeated writes (R109) -/

/-- A register other than `CMD` takes the same value from a second identical write. -/
theorem writeReg_twice (s : State) (v : Word) {r : Reg} (h : r ≠ .cmd) :
    (s.writeReg v r).writeReg v r = s.writeReg v r := by
  cases r with
  | cmd => exact absurd rfl h
  | status => simp [State.writeReg, Status.acknowledge]
  | apid k => simp [State.writeReg, State.setCfg]
  | _ => rfl

theorem writeTarget_twice (s : State) (v : Word) {x : Target} (h : x ≠ .reg .cmd) :
    (s.writeTarget v x).writeTarget v x = s.writeTarget v x := by
  cases x with
  | reg r => exact writeReg_twice s v fun hr => h (congrArg Target.reg hr)
  | rom x off => rfl
  | scratch x off => exact congrArg s.setScratch (storeScratch_twice s.rs.scratch x off (wordByte v) 4)
  | ram a => exact storeBytes_twice s a (wordByte v) 4

theorem writeTarget_busy (s : State) (v : Word) {x : Target} (h : x ≠ .reg .cmd) :
    (s.writeTarget v x).status.busy = s.status.busy := by
  cases x with
  | reg r =>
    cases r with
    | cmd => exact absurd rfl h
    | _ => rfl
  | scratch x off => rfl
  | rom x off => rfl
  | ram a => exact congrArg Status.busy (memOnly_storeBytes s a (wordByte v) 4).status

/-- The checks of an access see `BUSY` alone of the state (R100). -/
theorem checkAccess_congr {s t : State} (h : s.status.busy = t.status.busy) (isRead : Bool) (a : Word) (n : Nat) :
    s.checkAccess isRead a n = t.checkAccess isRead a n := by
  unfold State.checkAccess
  rw [h]

theorem memWrite_twice (s : State) {a : Word} (ha : a ≠ 0x004) (n : Nat) (v : Word) :
    (s.memWrite a n v).memWrite a n v = s.memWrite a n v := by
  rcases memWrite_cases s a n v with ⟨hc, h⟩ | ⟨hc, h⟩ | ⟨x, hc, h⟩
  · rw [h]
    exact memWrite_hostBus (s := { s with hostBus := true }) ((checkAccess_congr rfl false a n).trans hc) v
  · rw [h]
    exact memWrite_hazard (s := { s with hazard := true }) ((checkAccess_congr rfl false a n).trans hc) v
  · obtain ⟨-, -, hx, -⟩ := checkAccess_perform hc
    have hcmd : x ≠ .reg .cmd := by
      rintro rfl
      exact ha (BitVec.eq_of_toNat_eq (ofAddr_reg_offset hx).symm)
    rw [h, memWrite_perform ((checkAccess_congr (writeTarget_busy s v hcmd) false a n).trans hc),
      writeTarget_twice s v hcmd]

/-- Settles O53: a read sets at most a mark, and a second identical write meets the same checks and stores nothing
new. -/
theorem readsHaveNoSideEffect : Obligations.ReadsHaveNoSideEffect :=
  ⟨memRead_frame, fun s _ v n ha => memWrite_twice s ha n v⟩

end Sys2Proof.Proofs
end

section
/-! PROOF. The command words (R130 to R139): a word is its fields from bit 31 down, so each format reads back what it
writes, and a word matches a row of the opcode map exactly when it is a word of the row's format. -/

namespace Sys2Proof.Proofs
open Sys2Proof.Machine Sys2Proof.Claims

/-! ### Words as fields (R132) -/

/-- A slice of a word is two fields side by side exactly when each field is its own slice. -/
theorem slice_eq_append_iff {k n m : Nat} (w : BitVec k) (s : Nat) (x : BitVec n) (y : BitVec m) :
    w.extractLsb' s (n + m) = x ++ y ↔ w.extractLsb' (s + m) n = x ∧ w.extractLsb' s m = y := by
  rw [← BitVec.extractLsb'_append_extractLsb'_eq_extractLsb' (Eq.refl (s + m))]
  constructor
  · intro h
    have hx := congrArg (BitVec.extractLsb' m n) h
    have hy := congrArg (BitVec.extractLsb' 0 m) h
    rw [BitVec.extractLsb'_append_eq_left, BitVec.extractLsb'_append_eq_left] at hx
    rw [BitVec.extractLsb'_append_eq_right, BitVec.extractLsb'_append_eq_right] at hy
    exact ⟨hx, hy⟩
  · rintro ⟨rfl, rfl⟩
    rfl

/-- A field that a mask covers is kept. -/
theorem slice_and_of_covered {k n s : Nat} {m : BitVec k} (h : m.extractLsb' s n = BitVec.allOnes n) (w : BitVec k) :
    (w &&& m).extractLsb' s n = w.extractLsb' s n := by
  rw [BitVec.extractLsb'_and, h, BitVec.and_allOnes]

/-- A field that a mask leaves out is cleared. -/
theorem slice_and_of_cleared {k n s : Nat} {m : BitVec k} (h : m.extractLsb' s n = 0#n) (w : BitVec k) :
    (w &&& m).extractLsb' s n = 0#n := by
  rw [BitVec.extractLsb'_and, h, BitVec.and_zero]

/-! ### The formats, field by field (R132, R139) -/

section
variable {w : Word} {opc : BitVec 6}

theorem opcOf_eq_toNat_iff : opcOf w = opc.toNat ↔ w.extractLsb' 26 6 = opc := BitVec.toNat_inj

theorem eq_iff_slice {v : Word} : w = v ↔ w.extractLsb' 0 32 = v := by rw [BitVec.extractLsb'_eq_self]

theorem eq_encN_iff : w = encN opc ↔ w.extractLsb' 26 6 = opc ∧ w.extractLsb' 0 26 = 0#26 := by
  rw [eq_iff_slice]
  change w.extractLsb' 0 (6 + 26) = opc ++ 0#26 ↔ _
  rw [slice_eq_append_iff]

theorem eq_encA_iff {a : Byte} : w = encA opc a ↔
    ((w.extractLsb' 26 6 = opc ∧ w.extractLsb' 16 10 = 0#10) ∧ w.extractLsb' 8 8 = a) ∧ w.extractLsb' 0 8 = 0#8 := by
  rw [eq_iff_slice]
  change w.extractLsb' 0 (6 + 10 + 8 + 8) = opc ++ 0#10 ++ a ++ 0#8 ↔ _
  rw [slice_eq_append_iff, slice_eq_append_iff, slice_eq_append_iff]

theorem eq_encAB_iff {a b : Byte} : w = encAB opc a b ↔
    ((w.extractLsb' 26 6 = opc ∧ w.extractLsb' 16 10 = 0#10) ∧ w.extractLsb' 8 8 = a) ∧ w.extractLsb' 0 8 = b := by
  rw [eq_iff_slice]
  change w.extractLsb' 0 (6 + 10 + 8 + 8) = opc ++ 0#10 ++ a ++ b ↔ _
  rw [slice_eq_append_iff, slice_eq_append_iff, slice_eq_append_iff]

theorem eq_encIL_iff {il : Nat} : w = encIL opc il ↔
    (w.extractLsb' 26 6 = opc ∧ w.extractLsb' 3 23 = 0#23) ∧ w.extractLsb' 0 3 = BitVec.ofNat 3 il := by
  rw [eq_iff_slice]
  change w.extractLsb' 0 (6 + 23 + 3) = opc ++ 0#23 ++ BitVec.ofNat 3 il ↔ _
  rw [slice_eq_append_iff, slice_eq_append_iff]

theorem eq_encNS_iff {n : Nat} : w = encNS opc n ↔
    (w.extractLsb' 26 6 = opc ∧ w.extractLsb' 17 9 = 0#9) ∧ w.extractLsb' 0 17 = BitVec.ofNat 17 n := by
  rw [eq_iff_slice]
  change w.extractLsb' 0 (6 + 9 + 17) = opc ++ 0#9 ++ BitVec.ofNat 17 n ↔ _
  rw [slice_eq_append_iff, slice_eq_append_iff]

theorem eq_encLK_iff {lk : ReadMode} : w = encLK opc lk ↔ (w.extractLsb' 26 6 = opc ∧ w.extractLsb' 1 25 = 0#25) ∧
    (if w.extractLsb' 0 1 = 1#1 then .locked else .search) = lk := by
  rw [eq_iff_slice]
  change w.extractLsb' 0 (6 + 25 + 1) = opc ++ 0#25 ++ _ ↔ _
  rw [slice_eq_append_iff, slice_eq_append_iff]
  refine and_congr_right' ?_
  rcases BitVec.eq_zero_or_eq_one (w.extractLsb' 0 1) with h | h <;> cases lk <;> simp [h]

/-! ### Reading a word in a format -/

/-- A format reads a word exactly when the word's reserved bits are 0. -/
theorem checked_eq_ok_iff {c : Prop} [Decidable c] {e : DecodeError} {i j : Instr} :
    (if c then .ok j else .error e : Except DecodeError Instr) = .ok i ↔ c ∧ j = i := by
  by_cases hc : c <;> simp [hc]

variable {i : Instr}

theorem formatN_iff {j : Instr} : opcOf w = opc.toNat ∧ formatN w j = .ok i ↔ w = encN opc ∧ j = i := by
  rw [opcOf_eq_toNat_iff, eq_encN_iff, formatN, checked_eq_ok_iff, and_assoc]

theorem formatA_iff {mk : Byte → Instr} :
    opcOf w = opc.toNat ∧ formatA w mk = .ok i ↔ ∃ a, w = encA opc a ∧ mk a = i := by
  simp [opcOf_eq_toNat_iff, eq_encA_iff, formatA, checked_eq_ok_iff, and_assoc]

theorem formatAB_iff {mk : Byte → Byte → Instr} :
    opcOf w = opc.toNat ∧ formatAB w mk = .ok i ↔ ∃ a b, w = encAB opc a b ∧ mk a b = i := by
  simp [opcOf_eq_toNat_iff, eq_encAB_iff, formatAB, checked_eq_ok_iff, and_assoc]

theorem formatIL_iff {mk : Nat → Instr} :
    opcOf w = opc.toNat ∧ formatIL w mk = .ok i ↔ ∃ il : BitVec 3, w = encIL opc il.toNat ∧ mk il.toNat = i := by
  simp [opcOf_eq_toNat_iff, eq_encIL_iff, formatIL, checked_eq_ok_iff, and_assoc]

theorem formatNS_iff {mk : Nat → Instr} :
    opcOf w = opc.toNat ∧ formatNS w mk = .ok i ↔ ∃ n : BitVec 17, w = encNS opc n.toNat ∧ mk n.toNat = i := by
  simp [opcOf_eq_toNat_iff, eq_encNS_iff, formatNS, checked_eq_ok_iff, and_assoc]

theorem formatLK_iff {mk : ReadMode → Instr} :
    opcOf w = opc.toNat ∧ formatLK w mk = .ok i ↔ ∃ lk, w = encLK opc lk ∧ mk lk = i := by
  simp [opcOf_eq_toNat_iff, eq_encLK_iff, formatLK, checked_eq_ok_iff, and_assoc]

/-! ### Matching a word against a row's mask (R133) -/

/-- A mask without an operand field leaves the word as it is. -/
theorem decode_of_matchesN {p : Word} (hp : decode p = .ok i) (h : w &&& 0xFFFFFFFF = p) : decode w = .ok i := by
  change w &&& BitVec.allOnes 32 = p at h
  rwa [← h, BitVec.and_allOnes] at hp

theorem matchesA_iff : w &&& 0xFFFF00FF = encA opc 0 ↔ ∃ a, w = encA opc a := by
  simp +decide [eq_encA_iff, slice_and_of_covered, slice_and_of_cleared]

theorem matchesAB_iff : w &&& 0xFFFF0000 = encAB opc 0 0 ↔ ∃ a b, w = encAB opc a b := by
  simp +decide [eq_encAB_iff, slice_and_of_covered, slice_and_of_cleared]

theorem matchesIL_iff : w &&& 0xFFFFFFF8 = encIL opc 0 ↔ ∃ il : BitVec 3, w = encIL opc il.toNat := by
  simp +decide [eq_encIL_iff, slice_and_of_covered, slice_and_of_cleared]

theorem matchesNS_iff : w &&& 0xFFFE0000 = encNS opc 0 ↔ ∃ n : BitVec 17, w = encNS opc n.toNat := by
  simp +decide [eq_encNS_iff, slice_and_of_covered, slice_and_of_cleared]

theorem matchesLK_iff : w &&& 0xFFFFFFFE = encLK opc .search ↔ ∃ lk, w = encLK opc lk := by
  simp +decide [eq_encLK_iff, slice_and_of_covered, slice_and_of_cleared]

end

/-! ### Encoding and decoding (R133, R135) -/

/-- A number that fits a field is the value of a field. -/
theorem exists_toNat_eq {n k : Nat} (h : k < 2 ^ n) : ∃ x : BitVec n, x.toNat = k := ⟨.ofNatLT k h, rfl⟩

/-- A word decodes by the arm of its opcode. -/
theorem decode_of_arm {w : Word} {n : Nat} {r : Except DecodeError Instr} {i : Instr} (h : opcOf w = n ∧ r = .ok i)
    (harm : opcOf w = n → decode w = r) : decode w = .ok i := (harm h.1).trans h.2

/-- Settles O1, command by command: the word's opcode picks the command's arm of the decoder, whose format reads the
operands back. A command without operands is one word, and is evaluated. -/
theorem encodedCommandDecodesBack : Obligations.EncodedCommandDecodesBack := by
  intro i hwf
  cases i with
  | gfLog a => exact decode_of_arm ((formatA_iff (opc := 0x01)).2 ⟨a, rfl, rfl⟩) fun h => by rw [decode, h]; rfl
  | gfExp a => exact decode_of_arm ((formatA_iff (opc := 0x02)).2 ⟨a, rfl, rfl⟩) fun h => by rw [decode, h]; rfl
  | gfMul a b => exact decode_of_arm ((formatAB_iff (opc := 0x03)).2 ⟨a, b, rfl, rfl⟩) fun h => by rw [decode, h]; rfl
  | gfDiv a b => exact decode_of_arm ((formatAB_iff (opc := 0x04)).2 ⟨a, b, rfl, rfl⟩) fun h => by rw [decode, h]; rfl
  | rsSyn il =>
    obtain ⟨il, rfl⟩ := exists_toNat_eq (n := 3) (of_decide_eq_true hwf)
    exact decode_of_arm ((formatIL_iff (opc := 0x08)).2 ⟨il, rfl, rfl⟩) fun h => by rw [decode, h]; rfl
  | rsCorr il =>
    obtain ⟨il, rfl⟩ := exists_toNat_eq (n := 3) (of_decide_eq_true hwf)
    exact decode_of_arm ((formatIL_iff (opc := 0x0C)).2 ⟨il, rfl, rfl⟩) fun h => by rw [decode, h]; rfl
  | syncSkip n =>
    obtain ⟨n, rfl⟩ := exists_toNat_eq (n := 17) (of_decide_eq_true hwf)
    exact decode_of_arm ((formatNS_iff (opc := 0x15)).2 ⟨n, rfl, rfl⟩) fun h => by rw [decode, h]; rfl
  | caduRead lk => cases lk <;> rfl
  | _ => rfl

/-- A word of a command without operands is that command's word. -/
theorem wf_and_encode_of_formatN {w : Word} {i j : Instr} (opc : BitVec 6) (hj : j.wf = true ∧ encode j = encN opc)
    (hopc : opcOf w = opc.toNat) (h : formatN w j = .ok i) : i.wf = true ∧ encode i = w := by
  obtain ⟨rfl, rfl⟩ := formatN_iff.1 ⟨hopc, h⟩
  exact hj

/-- Settles O2, opcode by opcode: a word that a format reads is the format's word of the operands read. -/
theorem decodedWordEncodesBack : Obligations.DecodedWordEncodesBack := by
  intro w i h
  unfold decode at h
  split at h
  next hopc => exact wf_and_encode_of_formatN 0x00 ⟨rfl, rfl⟩ hopc h
  next hopc => obtain ⟨a, rfl, rfl⟩ := (formatA_iff (opc := 0x01)).1 ⟨hopc, h⟩; exact ⟨rfl, rfl⟩
  next hopc => obtain ⟨a, rfl, rfl⟩ := (formatA_iff (opc := 0x02)).1 ⟨hopc, h⟩; exact ⟨rfl, rfl⟩
  next hopc => obtain ⟨a, b, rfl, rfl⟩ := (formatAB_iff (opc := 0x03)).1 ⟨hopc, h⟩; exact ⟨rfl, rfl⟩
  next hopc => obtain ⟨a, b, rfl, rfl⟩ := (formatAB_iff (opc := 0x04)).1 ⟨hopc, h⟩; exact ⟨rfl, rfl⟩
  next hopc =>
    obtain ⟨il, rfl, rfl⟩ := (formatIL_iff (opc := 0x08)).1 ⟨hopc, h⟩
    exact ⟨decide_eq_true il.isLt, rfl⟩
  next hopc => exact wf_and_encode_of_formatN 0x09 ⟨rfl, rfl⟩ hopc h
  next hopc => exact wf_and_encode_of_formatN 0x0A ⟨rfl, rfl⟩ hopc h
  next hopc => exact wf_and_encode_of_formatN 0x0B ⟨rfl, rfl⟩ hopc h
  next hopc =>
    obtain ⟨il, rfl, rfl⟩ := (formatIL_iff (opc := 0x0C)).1 ⟨hopc, h⟩
    exact ⟨decide_eq_true il.isLt, rfl⟩
  next hopc => exact wf_and_encode_of_formatN 0x0D ⟨rfl, rfl⟩ hopc h
  next hopc => exact wf_and_encode_of_formatN 0x10 ⟨rfl, rfl⟩ hopc h
  next hopc => exact wf_and_encode_of_formatN 0x14 ⟨rfl, rfl⟩ hopc h
  next hopc =>
    obtain ⟨n, rfl, rfl⟩ := (formatNS_iff (opc := 0x15)).1 ⟨hopc, h⟩
    exact ⟨decide_eq_true n.isLt, rfl⟩
  next hopc => obtain ⟨lk, rfl, rfl⟩ := (formatLK_iff (opc := 0x18)).1 ⟨hopc, h⟩; exact ⟨rfl, rfl⟩
  next hopc => exact wf_and_encode_of_formatN 0x20 ⟨rfl, rfl⟩ hopc h
  next hopc => exact wf_and_encode_of_formatN 0x21 ⟨rfl, rfl⟩ hopc h
  next hopc => exact wf_and_encode_of_formatN 0x22 ⟨rfl, rfl⟩ hopc h
  next hopc => exact wf_and_encode_of_formatN 0x23 ⟨rfl, rfl⟩ hopc h
  next hopc => exact wf_and_encode_of_formatN 0x3F ⟨rfl, rfl⟩ hopc h
  next => cases h

/-! ### The opcode map (R133, R134) -/

/-- A word that matches a row is a word of the row's command. -/
theorem decode_of_matches (w : Word) :
    ∀ row ∈ opcodeMap, Matches w row → ∃ i, decode w = .ok i ∧ i.mnemonic = row.mnemonic := by
  simp only [opcodeMap, List.cons_append, List.nil_append, List.forall_mem_cons]
  refine ⟨fun h => ⟨.nop, decode_of_matchesN rfl h, rfl⟩, fun h => ?gfLog, fun h => ?gfExp, fun h => ?gfMul,
    fun h => ?gfDiv, fun h => ?rsSyn, fun h => ⟨.rsBm, decode_of_matchesN rfl h, rfl⟩,
    fun h => ⟨.rsChien, decode_of_matchesN rfl h, rfl⟩, fun h => ⟨.rsForney, decode_of_matchesN rfl h, rfl⟩,
    fun h => ?rsCorr, fun h => ⟨.rsDecode, decode_of_matchesN rfl h, rfl⟩,
    fun h => ⟨.drApply, decode_of_matchesN rfl h, rfl⟩, fun h => ⟨.syncFind, decode_of_matchesN rfl h, rfl⟩,
    fun h => ?syncSkip, fun h => ?caduRead, fun h => ⟨.dpFrame, decode_of_matchesN rfl h, rfl⟩,
    fun h => ⟨.dpAck, decode_of_matchesN rfl h, rfl⟩, fun h => ⟨.dpFlush, decode_of_matchesN rfl h, rfl⟩,
    fun h => ⟨.dpReset, decode_of_matchesN rfl h, rfl⟩, fun h => ⟨.coreReset, decode_of_matchesN rfl h, rfl⟩,
    fun _ h => nomatch h⟩
  case gfLog =>
    obtain ⟨a, rfl⟩ := (matchesA_iff (opc := 0x01)).1 h
    exact ⟨.gfLog a, encodedCommandDecodesBack (.gfLog a) rfl, rfl⟩
  case gfExp =>
    obtain ⟨a, rfl⟩ := (matchesA_iff (opc := 0x02)).1 h
    exact ⟨.gfExp a, encodedCommandDecodesBack (.gfExp a) rfl, rfl⟩
  case gfMul =>
    obtain ⟨a, b, rfl⟩ := (matchesAB_iff (opc := 0x03)).1 h
    exact ⟨.gfMul a b, encodedCommandDecodesBack (.gfMul a b) rfl, rfl⟩
  case gfDiv =>
    obtain ⟨a, b, rfl⟩ := (matchesAB_iff (opc := 0x04)).1 h
    exact ⟨.gfDiv a b, encodedCommandDecodesBack (.gfDiv a b) rfl, rfl⟩
  case rsSyn =>
    obtain ⟨il, rfl⟩ := (matchesIL_iff (opc := 0x08)).1 h
    exact ⟨.rsSyn il.toNat, encodedCommandDecodesBack (.rsSyn il.toNat) (decide_eq_true il.isLt), rfl⟩
  case rsCorr =>
    obtain ⟨il, rfl⟩ := (matchesIL_iff (opc := 0x0C)).1 h
    exact ⟨.rsCorr il.toNat, encodedCommandDecodesBack (.rsCorr il.toNat) (decide_eq_true il.isLt), rfl⟩
  case syncSkip =>
    obtain ⟨n, rfl⟩ := (matchesNS_iff (opc := 0x15)).1 h
    exact ⟨.syncSkip n.toNat, encodedCommandDecodesBack (.syncSkip n.toNat) (decide_eq_true n.isLt), rfl⟩
  case caduRead =>
    obtain ⟨lk, rfl⟩ := (matchesLK_iff (opc := 0x18)).1 h
    exact ⟨.caduRead lk, encodedCommandDecodesBack (.caduRead lk) rfl, rfl⟩

/-- The word of a well-formed command matches the row that carries the command's mnemonic. -/
theorem exists_row_matches_encode {i : Instr} (hwf : i.wf = true) :
    ∃ row ∈ opcodeMap, row.mnemonic = i.mnemonic ∧ Matches (encode i) row := by
  cases i with
  | gfLog a => exact ⟨⟨_, encA 0x01 0, 0xFFFF00FF⟩, by decide, rfl, matchesA_iff.2 ⟨a, rfl⟩⟩
  | gfExp a => exact ⟨⟨"GF_EXP", encA 0x02 0, 0xFFFF00FF⟩, by decide, rfl, matchesA_iff.2 ⟨a, rfl⟩⟩
  | gfMul a b => exact ⟨⟨"GF_MUL", encAB 0x03 0 0, 0xFFFF0000⟩, by decide, rfl, matchesAB_iff.2 ⟨a, b, rfl⟩⟩
  | gfDiv a b => exact ⟨⟨"GF_DIV", encAB 0x04 0 0, 0xFFFF0000⟩, by decide, rfl, matchesAB_iff.2 ⟨a, b, rfl⟩⟩
  | rsSyn il =>
    obtain ⟨il, rfl⟩ := exists_toNat_eq (n := 3) (of_decide_eq_true hwf)
    exact ⟨⟨"RS_SYN", encIL 0x08 0, 0xFFFFFFF8⟩, by decide, rfl, matchesIL_iff.2 ⟨il, rfl⟩⟩
  | rsCorr il =>
    obtain ⟨il, rfl⟩ := exists_toNat_eq (n := 3) (of_decide_eq_true hwf)
    exact ⟨⟨"RS_CORR", encIL 0x0C 0, 0xFFFFFFF8⟩, by decide, rfl, matchesIL_iff.2 ⟨il, rfl⟩⟩
  | syncSkip n =>
    obtain ⟨n, rfl⟩ := exists_toNat_eq (n := 17) (of_decide_eq_true hwf)
    exact ⟨⟨"SYNC_SKIP", encNS 0x15 0, 0xFFFE0000⟩, by decide, rfl, matchesNS_iff.2 ⟨n, rfl⟩⟩
  | caduRead lk => cases lk <;> decide
  | _ => decide

/-- The rows' mnemonics differ. -/
theorem mnemonics_nodup : (opcodeMap.map OpcodeRow.mnemonic).Nodup := by decide

/-- The other direction goes through the encoder: the word is the encoding of its command, which matches the command's
row, and no other row has its mnemonic. -/
theorem matches_iff_decode (w : Word) {row : OpcodeRow} (hrow : row ∈ opcodeMap) :
    Matches w row ↔ ∃ i, decode w = .ok i ∧ i.mnemonic = row.mnemonic := by
  refine ⟨decode_of_matches w row hrow, ?_⟩
  rintro ⟨i, hdec, hname⟩
  obtain ⟨hwf, rfl⟩ := decodedWordEncodesBack w i hdec
  obtain ⟨row', hrow', hname', hmatch⟩ := exists_row_matches_encode hwf
  obtain rfl : row' = row := List.inj_on_of_nodup_map mnemonics_nodup hrow' hrow (hname'.trans hname)
  exact hmatch

theorem exists_row_of_decode {w : Word} {i : Instr} (h : decode w = .ok i) :
    ∃ row ∈ opcodeMap, row.mnemonic = i.mnemonic ∧ Matches w row := by
  obtain ⟨hwf, rfl⟩ := decodedWordEncodesBack w i h
  exact exists_row_matches_encode hwf

/-- Settles O3: no word matches two rows, because it would be a command with two mnemonics. -/
theorem decodeFollowsOpcodeMap : Obligations.DecodeFollowsOpcodeMap := by
  refine ⟨fun w row hrow => matches_iff_decode w hrow, fun w i h => ?_, ?_⟩
  · obtain ⟨row, hrow, hname, -⟩ := exists_row_of_decode h
    exact ⟨row, hrow, hname⟩
  · refine (List.pairwise_map.1 mnemonics_nodup).imp_of_mem fun hr hr' hne w hw => hne ?_
    obtain ⟨i, hi, hname⟩ := decode_of_matches w _ hr hw.1
    obtain ⟨j, hj, hname'⟩ := decode_of_matches w _ hr' hw.2
    cases hi.symm.trans hj
    exact hname.symm.trans hname'

/-! ### Illegal words (R135) -/

theorem no_row_iff_illegal (w : Word) : (∀ row ∈ opcodeMap, ¬ Matches w row) ↔ ∃ e, decode w = .error e := by
  cases hd : decode w with
  | error e => exact ⟨fun _ => ⟨e, rfl⟩, fun _ row hrow hw => by simpa [hd] using decode_of_matches w row hrow hw⟩
  | ok i =>
    obtain ⟨row, hrow, -, hw⟩ := exists_row_of_decode hd
    exact ⟨fun h => absurd hw (h row hrow), fun ⟨_, h⟩ => nomatch h⟩

/-- None of the opcodes that R133 leaves free has an arm in the decoder. -/
theorem decode_of_unassigned {w : Word}
    (h : opcOf w ∈ [0x05, 0x06, 0x07, 0x0E, 0x0F, 0x11, 0x12, 0x13, 0x16, 0x17, 0x19, 0x1A, 0x1B, 0x1C, 0x1D,
      0x1E, 0x1F] ∨ (0x24 ≤ opcOf w ∧ opcOf w ≤ 0x3E)) :
    decode w = .error .unassignedOpcode := by
  unfold decode
  split
  case h_21 => rfl
  all_goals
    rename_i hopc
    rw [hopc] at h
    exact absurd h (by decide)

/-- The CORE's step on an illegal word is the completion alone (R501). -/
theorem step_illegal {s : State} {e : DecodeError} (hb : s.status.busy = true) (hc : s.host = [] ∨ s.delay = 0)
    (h : decode s.pending = .error e) : step s = .next (s.complete .illegal) := by
  rw [step_core (turn_core hb hc), runPending, h]

/-- A completion with an error code sets `ERR` (R503). -/
theorem complete_error {code : ErrCode} (h : code ≠ .ok) (s : State) :
    s.complete code = { s with status := doneErr code s.status } := by
  simp [State.complete, Status.complete, doneErr, h]

/-- Settles O7: a word without a row is one that does not decode, and the CORE's step on it is the completion alone. -/
theorem illegalWordWritesOnlyCompletion : Obligations.IllegalWordWritesOnlyCompletion := by
  refine ⟨fun s hb hc hrows => ⟨?_, ?_⟩, no_row_iff_illegal,
    fun w h => (no_row_iff_illegal w).2 ⟨_, decode_of_unassigned h⟩⟩
  · obtain ⟨e, he⟩ := (no_row_iff_illegal s.pending).1 hrows
    rw [step_illegal hb hc he, complete_error (by decide)]
  · obtain ⟨-, -, -, hcode, -⟩ := statusAndResultRegistersShowState.1 { s with status := doneErr .illegal s.status }
    exact hcode

/-! ### The encoding functions as shifts (R139) -/

/-- Settles O4: fields side by side are the disjunction of the fields shifted to their places. -/
theorem wordsFollowFormats : Obligations.WordsFollowFormats := by
  refine ⟨fun opc => ?_, fun opc a => ?_, fun opc a b => ?_, fun opc il hil => ?_, fun opc n hn => ?_,
    fun opc => ⟨?_, ?_⟩, by decide⟩
  · simpa [encN] using @BitVec.setWidth_append_eq_shiftLeft_setWidth_or 6 26 32 opc 0#26
  · simpa [encA] using
      @BitVec.setWidth_append_append_append_eq_shiftLeft_setWidth_or 6 10 8 8 32 opc 0#10 a 0#8
  · simpa [encAB] using
      @BitVec.setWidth_append_append_append_eq_shiftLeft_setWidth_or 6 10 8 8 32 opc 0#10 a b
  · simpa [encIL, BitVec.setWidth_ofNat_of_le_of_lt (w := 3) (v := 32) (by decide) hil] using
      @BitVec.setWidth_append_append_eq_shiftLeft_setWidth_or 6 23 3 32 opc 0#23 (.ofNat 3 il)
  · simpa [encNS, BitVec.setWidth_ofNat_of_le_of_lt (w := 17) (v := 32) (by decide) hn] using
      @BitVec.setWidth_append_append_eq_shiftLeft_setWidth_or 6 9 17 32 opc 0#9 (.ofNat 17 n)
  · simpa [encLK] using @BitVec.setWidth_append_append_eq_shiftLeft_setWidth_or 6 25 1 32 opc 0#25 0#1
  · simpa [encLK] using @BitVec.setWidth_append_append_eq_shiftLeft_setWidth_or 6 25 1 32 opc 0#25 1#1

end Sys2Proof.Proofs
end

section
/-! PROOF. The field (R200 to R213): multiplication by `alpha` and the transform `TAL` are linear, so the powers of
`alpha` make the normal product the polynomial product, and `TAL` carries its laws to the dual basis. -/

namespace Sys2Proof.Proofs
open Sys2Proof.Machine Sys2Proof.Claims

/-! ### Sums of bytes and linear maps -/

theorem xorOver_xor (l : List Nat) (f g : Nat → Byte) :
    xorOver l (fun k => f k ^^^ g k) = xorOver l f ^^^ xorOver l g := by
  induction l with
  | nil => simp [xorOver_nil]
  | cons k l ih => simp only [xorOver_cons, ih]; ac_rfl

theorem map_zero_of_linear {φ : Byte → Byte} (hφ : ∀ x y, φ (x ^^^ y) = φ x ^^^ φ y) : φ 0 = 0 := by
  simpa using hφ 0 0

theorem map_xorOver {φ : Byte → Byte} (hφ : ∀ x y, φ (x ^^^ y) = φ x ^^^ φ y) (l : List Nat) (f : Nat → Byte) :
    φ (xorOver l f) = xorOver l fun k => φ (f k) := by
  induction l with
  | nil => exact map_zero_of_linear hφ
  | cons k l ih => simp only [xorOver_cons, hφ, ih]

theorem ite_xor (p q : Bool) (r : Byte) :
    (if (p ^^ q) then r else 0) = (if p then r else 0) ^^^ if q then r else 0 := by
  cases p <;> cases q <;> simp

/-- The sum of the rows that a byte's bits select is linear in the byte. -/
theorem xorOver_rows_xor (row : Nat → Byte) (l : List Nat) (x y : Byte) :
    xorOver l (fun k => if (x ^^^ y).getLsbD k then row k else 0) =
      xorOver l (fun k => if x.getLsbD k then row k else 0) ^^^
        xorOver l fun k => if y.getLsbD k then row k else 0 := by
  simp only [← xorOver_xor, ← ite_xor, BitVec.getLsbD_xor]

theorem tal_xor (x y : Byte) : tal (x ^^^ y) = tal x ^^^ tal y := xorOver_rows_xor _ _ x y

theorem tal_zero : tal 0 = 0 := map_zero_of_linear tal_xor

theorem polyProduct_xor (a c d : Byte) : polyProduct a (c ^^^ d) = polyProduct a c ^^^ polyProduct a d :=
  xorOver_rows_xor _ _ c d

/-! ### Antilogs, the powers of `alpha` (R201) -/

theorem eq_zero_or_alog (basis : Bool) (x : Byte) : x = 0 ∨ ∃ i < 255, x = alog basis i :=
  or_iff_not_imp_left.2 (exists_alog basis)

theorem timesAlpha_eq (x : Byte) : timesAlpha x = x <<< 1 ^^^ if x.msb then 0x87 else 0 := by
  have h : ∀ i : Fin 256, timesAlpha (BitVec.ofFin i) =
      BitVec.ofFin i <<< 1 ^^^ if (BitVec.ofFin i : Byte).msb then 0x87 else 0 := by decide +kernel
  exact h x.toFin

theorem timesAlpha_xor (x y : Byte) : timesAlpha (x ^^^ y) = timesAlpha x ^^^ timesAlpha y := by
  simp only [timesAlpha_eq, BitVec.shiftLeft_xor_distrib, BitVec.msb_xor, ite_xor]
  ac_rfl

/-- The antilog table goes through the powers of `alpha`, from index 254 back to 0 too. -/
theorem alog_succ (e : Nat) : alog false (e + 1) = timesAlpha (alog false e) := by
  have h : ∀ i : Fin 255, alog false (i + 1) = timesAlpha (alog false i) := by decide +kernel
  rw [← alog_mod false e, ← h ⟨e % 255, Nat.mod_lt _ (by decide)⟩]
  exact alog_congr false (by simp)

theorem alog_add (i e : Nat) : alog false (i + e) = timesAlpha^[i] (alog false e) := by
  induction i with
  | zero => simp
  | succ i ih => rw [Function.iterate_succ_apply', ← ih, ← alog_succ, Nat.add_right_comm]

/-! ### The polynomial product (R200) -/

theorem polyProduct_zero (a : Byte) : polyProduct a 0 = 0 := map_zero_of_linear (polyProduct_xor a)

theorem polyProduct_timesAlpha (a c : Byte) : polyProduct (timesAlpha a) c = timesAlpha (polyProduct a c) := by
  rw [polyProduct, polyProduct, map_xorOver timesAlpha_xor]
  congr 1
  funext k
  rw [apply_ite timesAlpha, map_zero_of_linear timesAlpha_xor, ← Function.iterate_succ_apply' timesAlpha,
    Function.iterate_succ_apply]

theorem one_polyProduct (c : Byte) : polyProduct 0x01 c = c := by
  have h : ∀ i : Fin 256, polyProduct 0x01 (BitVec.ofFin i) = BitVec.ofFin i := by decide +kernel
  exact h c.toFin

theorem polyProduct_alog (i : Nat) (c : Byte) : polyProduct (alog false i) c = timesAlpha^[i] c := by
  induction i with
  | zero => exact one_polyProduct c
  | succ i ih => rw [alog_succ, polyProduct_timesAlpha, ih, Function.iterate_succ_apply']

theorem zero_polyProduct (c : Byte) : polyProduct 0 c = 0 := by
  have h (k : Nat) : timesAlpha^[k] 0 = 0 := Function.iterate_fixed (map_zero_of_linear timesAlpha_xor) k
  simp only [polyProduct, h, ite_self]
  rfl

/-- Settles O18: multiplying by `alpha ^ i` is multiplying by `alpha` `i` times, in the tables as in the polynomials. -/
theorem normalProductIsPolynomialProduct : Obligations.NormalProductIsPolynomialProduct := by
  intro a c
  obtain rfl | ⟨i, -, rfl⟩ := eq_zero_or_alog false a
  · rw [gmul_zero_left, zero_polyProduct]
  obtain rfl | ⟨j, -, rfl⟩ := eq_zero_or_alog false c
  · rw [gmul_zero_right, polyProduct_zero]
  rw [gmul_alog, alog_add, polyProduct_alog]

/-! ### The dual basis (R203, R209) -/

theorem alog_true_eq_tal (e : Nat) : alog true e = tal (alog false e) := by
  have h : ∀ i : Fin 255, alog true i = tal (alog false i) := by decide +kernel
  rw [← alog_mod true, ← alog_mod false]
  exact h ⟨e % 255, Nat.mod_lt _ (by decide)⟩

theorem tal_eq_zero_iff (x : Byte) : tal x = 0 ↔ x = 0 := by
  refine ⟨fun h => by_contra fun hx => ?_, fun h => h ▸ tal_zero⟩
  obtain ⟨i, -, rfl⟩ := exists_alog false hx
  exact alog_ne_zero true i (alog_true_eq_tal i ▸ h)

theorem tal_injective : Function.Injective tal := fun x y h => by
  have hsum : tal (x ^^^ y) = 0 := by rw [tal_xor, h]; exact BitVec.xor_self
  exact BitVec.xor_eq_zero_iff.1 ((tal_eq_zero_iff _).1 hsum)

theorem tal_surjective : Function.Surjective tal := fun y => by
  obtain rfl | ⟨i, -, rfl⟩ := eq_zero_or_alog true y
  · exact ⟨0, tal_zero⟩
  · exact ⟨alog false i, (alog_true_eq_tal i).symm⟩

/-- `TAL` carries the normal product to the dual one (R209). -/
theorem gmul_tal (x y : Byte) : gmul true (tal x) (tal y) = tal (gmul false x y) := by
  obtain rfl | ⟨i, -, rfl⟩ := eq_zero_or_alog false x
  · simp only [tal_zero, gmul_zero_left]
  obtain rfl | ⟨j, -, rfl⟩ := eq_zero_or_alog false y
  · simp only [tal_zero, gmul_zero_right]
  rw [← alog_true_eq_tal, ← alog_true_eq_tal, gmul_alog, gmul_alog, alog_true_eq_tal]

/-- Settles O15: `TAL` is linear and takes antilogs to antilogs, so it is bijective and takes products to products. -/
theorem dualTablesAreTransformed : Obligations.DualTablesAreTransformed :=
  ⟨fun i _ => alog_true_eq_tal i, by decide, by decide, tal_xor, ⟨tal_injective, tal_surjective⟩, by decide,
    by decide, gmul_tal⟩

/-! ### The laws of the product (R205) -/

section
variable (basis : Bool)

theorem gmul_comm (a c : Byte) : gmul basis a c = gmul basis c a := by
  simp only [gmul, or_comm, Nat.add_comm]

theorem gmul_assoc (a c d : Byte) : gmul basis (gmul basis a c) d = gmul basis a (gmul basis c d) := by
  obtain rfl | ⟨i, -, rfl⟩ := eq_zero_or_alog basis a
  · simp only [gmul_zero_left]
  obtain rfl | ⟨j, -, rfl⟩ := eq_zero_or_alog basis c
  · simp only [gmul_zero_left, gmul_zero_right]
  obtain rfl | ⟨k, -, rfl⟩ := eq_zero_or_alog basis d
  · simp only [gmul_zero_right]
  simp only [gmul_alog, Nat.add_assoc]

/-- The product is linear in the normal basis as the polynomial product is, and so in the dual one through `TAL`. -/
theorem gmul_xor (a c d : Byte) : gmul basis a (c ^^^ d) = gmul basis a c ^^^ gmul basis a d := by
  have normal (a c d : Byte) : gmul false a (c ^^^ d) = gmul false a c ^^^ gmul false a d := by
    simp only [normalProductIsPolynomialProduct a, polyProduct_xor]
  cases basis with
  | false => exact normal a c d
  | true =>
    obtain ⟨a, rfl⟩ := tal_surjective a
    obtain ⟨c, rfl⟩ := tal_surjective c
    obtain ⟨d, rfl⟩ := tal_surjective d
    simp only [← tal_xor, gmul_tal, normal]

theorem gmul_one (a : Byte) : gmul basis a (alog basis 0) = a := by
  obtain rfl | ⟨i, -, rfl⟩ := eq_zero_or_alog basis a
  · rw [gmul_zero_left]
  · rw [gmul_alog, Nat.add_zero]

/-! ### Quotient and inverse (R206 to R208) -/

theorem gmul_gdiv (a : Byte) {x : Byte} (hx : x ≠ 0) : gmul basis x (gdiv basis a x) = a := by
  obtain rfl | ⟨i, -, rfl⟩ := eq_zero_or_alog basis a
  · rw [gdiv, if_pos rfl, gmul_zero_right]
  obtain ⟨j, hj, rfl⟩ := exists_alog basis hx
  rw [gdiv_alog basis i j hj, gmul_alog]
  exact alog_congr basis (by omega)

theorem gmul_ginv {x : Byte} (hx : x ≠ 0) : gmul basis x (ginv basis x) = gone basis := by
  obtain ⟨i, hi, rfl⟩ := exists_alog basis hx
  rw [ginv, glog_alog basis hi, gmul_alog, gone]
  exact alog_congr basis (by omega)

theorem glog_zero : glog basis 0 = 0 := by cases basis <;> rfl

end

/-- Settles O17: the product adds logarithms, and distributes as the polynomial product does. -/
theorem gfProductLaws : Obligations.GfProductLaws :=
  ⟨fun _ _ _ => rfl, gmul_comm, gmul_assoc, gmul_xor, gmul_one, by decide, by decide, by decide⟩

/-- Settles O16: the tables invert each other, and a quotient's logarithm is the difference of logarithms. -/
theorem gfRoundTrip : Obligations.GfRoundTrip := fun basis =>
  ⟨fun _ hx => alog_glog basis hx, fun _ hi => glog_alog basis hi,
    fun _ hx => ⟨gmul_gdiv basis 0x01 hx, gmul_ginv basis hx⟩, fun a _ hx => gmul_gdiv basis a hx⟩

/-- Settles O14: the antilogs are the powers of `alpha`, and an antilog's logarithm is its index. -/
theorem gfTablesFollowTheField : Obligations.GfTablesFollowTheField :=
  ⟨by decide, fun i _ => alog_succ i, fun basis e => ⟨(alog_mod basis e).symm, (alog_mod basis e).symm⟩,
    fun basis x hx => ⟨glog_lt basis x, alog_glog basis hx, fun i hi h => h ▸ (glog_alog basis hi).symm⟩,
    alog_ne_zero, glog_zero⟩

/-! ### The GF commands (R210 to R213) -/

/-- A command whose checks pass writes its body's state and the completion with OK (R503). -/
theorem exec_ok {i : Instr} {s : State} (h : firstFailure (checksOf i s) = none) :
    exec i s = .next { bodyOf i s with status := doneOk (bodyOf i s).status } := by
  rw [exec_passed h, complete_ok]

/-- Settles O19: each command is its one result and the completion, and the result is the field's by the laws above. -/
theorem gfCommandResults : Obligations.GfCommandResults := by
  refine ⟨fun a s => ?gfLog, fun a s => ?gfExp, fun a b s => exec_ok rfl, fun a b s hb => ?gfDiv, fun a s => ?divZero⟩
  case gfLog =>
    have hlog : (BitVec.ofNat 8 (glog s.basis a)).toNat = glog s.basis a :=
      Nat.mod_eq_of_lt (Nat.lt_trans (glog_lt s.basis a) (by decide))
    refine ⟨BitVec.ofNat 8 (glog s.basis a), exec_ok rfl, fun ha => by rw [ha, glog_zero]; rfl, fun ha => ?_⟩
    rw [hlog]
    exact ⟨glog_lt s.basis a, alog_glog s.basis ha⟩
  case gfExp =>
    rw [alog_mod]
    exact exec_ok rfl
  case gfDiv =>
    refine ⟨gdiv s.basis a b, exec_ok (by rw [checksOf, decide_eq_false hb]; rfl), ?_⟩
    rw [gmul_comm]
    exact gmul_gdiv s.basis a hb
  case divZero => rw [exec_failed rfl, complete_error (by decide)]

end Sys2Proof.Proofs
end

section
/-! PROOF. The stage commands of the RS unit but RS_BM (R240 to R248): each is a sum over the code's positions or over
the coefficients of a polynomial, which the model computes in its own order. -/

namespace Sys2Proof.Proofs
open Sys2Proof.Machine Sys2Proof.Claims

/-! ### Legal configurations (R69, R504) -/

/-- The claims' `CFG_RS_OK` is the model's (R69). -/
theorem rsOk_of_claim {c : CfgRegs} (h : RsOk c) : c.rsOk = true := by
  obtain ⟨⟨hT, hT'⟩, ⟨hI, hI'⟩, hK, hP⟩ := h
  exact CfgRegs.rsOk_iff.mpr ⟨hT, hT', hI, hI', by omega, hP⟩

section
variable {c : CfgRegs} (h : RsOk c)
include h

theorem one_le_T_of_rsOk : 1 ≤ c.T := h.1.1
theorem T_le_of_rsOk : c.T ≤ 16 := h.1.2
theorem one_le_I_of_rsOk : 1 ≤ c.I := h.2.1.1
theorem I_le_of_rsOk : c.I ≤ 8 := h.2.1.2
theorem VF_le_of_rsOk : c.VF ≤ 254 := by
  obtain ⟨-, -, hK, -⟩ := h
  omega
theorem coprime_of_rsOk : Nat.gcd 255 c.POA = 1 := (Nat.gcd_comm _ _).trans h.2.2.2

end

theorem rsOk_of_frameOk {c : CfgRegs} (h : FrameOk c) : RsOk c := h.1

/-- A stage command that needs `CFG_RS_OK` runs its body (R233). -/
theorem exec_of_rsOk {i : Instr} {s : State} (hi : i ∈ [.rsBm, .rsChien, .rsForney]) (hc : RsOk s.cfg) :
    exec i s = .next ((bodyOf i s).complete .ok) := by
  have passed : firstFailure [(!s.cfg.rsOk, ErrCode.cfg)] = none := by simp [rsOk_of_claim hc]
  simp only [List.mem_cons, List.not_mem_nil, or_false] at hi
  obtain rfl | rfl | rfl := hi <;> exact exec_passed passed

/-- A stage command that takes an interleave runs its body for an interleave of the frame (R233). -/
theorem exec_of_interleave {i : Instr} {s : State} {il : Nat} (hi : i ∈ [.rsSyn il, .rsCorr il])
    (hc : FrameOk s.cfg) (hil : il < s.cfg.I) : exec i s = .next ((bodyOf i s).complete .ok) := by
  have passed : firstFailure [(!s.cfg.frameOk, ErrCode.cfg), (decide (s.cfg.I ≤ il), .range)] = none := by
    simp [frameOk_of_claim hc, hil]
  simp only [List.mem_cons, List.not_mem_nil, or_false] at hi
  obtain rfl | rfl := hi <;> exact exec_passed passed

/-- RS_DECODE runs its body on a legal frame (R233). -/
theorem exec_rsDecode {s : State} (hc : FrameOk s.cfg) : exec .rsDecode s = .next ((rsDecodeBody s).complete .ok) := by
  have passed : firstFailure (checksOf .rsDecode s) = none := by simp [checksOf, frameOk_of_claim hc]
  exact exec_passed passed

/-! ### The scratch arrays (R83) -/

theorem syn_congr {s t : State} (h : s.rs = t.rs) (i : Nat) : s.syn i = t.syn i := by simp [State.syn, h]
theorem sigma_congr {s t : State} (h : s.rs = t.rs) (i : Nat) : s.sigma i = t.sigma i := by simp [State.sigma, h]
theorem omega_congr {s t : State} (h : s.rs = t.rs) (i : Nat) : s.omega i = t.omega i := by simp [State.omega, h]

theorem basis_congr {s t : State} (h : s.cfg = t.cfg) : s.basis = t.basis := by simp [State.basis, h]

/-! ### Sums of products -/

theorem byte_xor_zero (a : Byte) : a ^^^ 0 = a := BitVec.xor_zero
theorem byte_zero_xor (a : Byte) : 0 ^^^ a = a := BitVec.zero_xor
theorem byte_xor_self (a : Byte) : a ^^^ a = 0 := BitVec.xor_self
theorem byte_xor_eq_zero_iff (a c : Byte) : a ^^^ c = 0 ↔ a = c := BitVec.xor_eq_zero_iff

theorem xorOver_congr {l : List Nat} {f g : Nat → Byte} (h : ∀ i ∈ l, f i = g i) : xorOver l f = xorOver l g := by
  induction l with
  | nil => rfl
  | cons i l ih =>
    rw [xorOver_cons, xorOver_cons, h i List.mem_cons_self, ih fun j hj => h j (List.mem_cons_of_mem i hj)]

theorem xorOver_range_congr {n : Nat} {f g : Nat → Byte} (h : ∀ i < n, f i = g i) :
    xorOver (List.range n) f = xorOver (List.range n) g :=
  xorOver_congr fun i hi => h i (List.mem_range.mp hi)

theorem xorOver_eq_zero {l : List Nat} {f : Nat → Byte} (h : ∀ i ∈ l, f i = 0) : xorOver l f = 0 := by
  induction l with
  | nil => rfl
  | cons i l ih =>
    rw [xorOver_cons, h i List.mem_cons_self, ih fun j hj => h j (List.mem_cons_of_mem i hj), byte_xor_zero]

section
variable (basis : Bool)

theorem gmul_xor_left (a c d : Byte) : gmul basis (a ^^^ c) d = gmul basis a d ^^^ gmul basis c d := by
  simp only [gmul_comm basis _ d, gmul_xor]

theorem gmul_xorOver (a : Byte) (l : List Nat) (f : Nat → Byte) :
    gmul basis a (xorOver l f) = xorOver l fun i => gmul basis a (f i) :=
  map_xorOver (gmul_xor basis a) l f

theorem xorOver_gmul (a : Byte) (l : List Nat) (f : Nat → Byte) :
    gmul basis (xorOver l f) a = xorOver l fun i => gmul basis (f i) a :=
  map_xorOver (φ := fun c => gmul basis c a) (fun c d => gmul_xor_left basis c d a) l f

theorem gmul_gexp (e e' : Nat) : gmul basis (gexp basis e) (gexp basis e') = gexp basis (e + e') :=
  gmul_alog basis e e'

theorem gmul_gexp_gexp (a : Byte) (e e' : Nat) :
    gmul basis (gmul basis a (gexp basis e)) (gexp basis e') = gmul basis a (gexp basis (e + e')) := by
  rw [gmul_assoc, gmul_gexp]

/-- An exponent counts modulo 255, as a factor too (R207). -/
theorem gexp_mul_congr {e e' : Nat} (h : e % 255 = e' % 255) (i : Nat) : gexp basis (e * i) = gexp basis (e' * i) :=
  alog_congr basis (Nat.ModEq.mul_right i h)

end

/-! ### RS_SYN (R240, R241) -/

/-- Horner's rule: after `n` symbols, the symbol at position `p` has been multiplied `n - 1 - p` times (R240). -/
theorem horner_eq_xorOver (basis : Bool) (r : Nat → Byte) (e n : Nat) :
    (List.range n).foldl (fun acc p => gmul basis acc (gexp basis e) ^^^ r p) 0 =
      xorOver (List.range n) fun p => gmul basis (r p) (gexp basis (e * (n - 1 - p))) := by
  induction n with
  | zero => rfl
  | succ n ih =>
    have raise (p : Nat) (hp : p < n) : gmul basis (gmul basis (r p) (gexp basis (e * (n - 1 - p)))) (gexp basis e) =
        gmul basis (r p) (gexp basis (e * (n + 1 - 1 - p))) := by
      rw [gmul_gexp_gexp, ← Nat.mul_succ, show (n - 1 - p).succ = n + 1 - 1 - p by omega]
    have last : gmul basis (r n) (gexp basis (e * (n + 1 - 1 - n))) = r n := by
      rw [show n + 1 - 1 - n = 0 by omega]
      exact gmul_one basis (r n)
    rw [List.range_succ, List.foldl_append, ih, ← List.range_succ, xorOver_range_succ, last, List.foldl_cons,
      List.foldl_nil, xorOver_gmul, xorOver_range_congr raise]

/-- A syndrome component is the received polynomial at its root (R230, R240). -/
theorem syndrome_eq_receivedAt (s : State) (il i : Nat) :
    s.syndrome il i = receivedAt s il (s.cfg.POA * (s.cfg.MO + i)) := by
  have positions : s.cfg.NSYM = 255 - s.cfg.VF := rfl
  rw [State.syndrome, horner_eq_xorOver, positions, receivedAt]
  refine xorOver_range_congr fun p _ => ?_
  rw [show 255 - s.cfg.VF - 1 - p = 254 - s.cfg.VF - p by omega]
  rfl

theorem syn_rsSynBody (il : Nat) (s : State) {i : Nat} (hi : i < 32) :
    (rsSynBody il s).syn i = if i < 2 * s.cfg.T then receivedAt s il (s.cfg.POA * (s.cfg.MO + i)) else 0 := by
  simp only [State.syn, rsSynBody, State.setStage_rs, State.setScratch_rs, scratchOf_getD, if_pos hi,
    syndrome_eq_receivedAt]

/-- The zero test looks at every component (R241). -/
theorem synNz_rsSynBody (il : Nat) (s : State) :
    (rsSynBody il s).rs.stage.synNz = true ↔ ∃ i < 2 * s.cfg.T, (rsSynBody il s).syn i ≠ 0 := by
  simp only [rsSynBody, State.syn, State.setStage_rs, State.setScratch_rs, any_range_eq_decide, decide_eq_true_iff]

/-- What RS_SYN writes: `SYN`, and `RS_STAGE` anew (R240). -/
theorem rsSynBody_eq (il : Nat) (s : State) : ∃ syn synNz, rsSynBody il s =
    (s.setScratch { s.rs.scratch with syn := syn }).setStage ⟨0, 0, false, 0, synNz, BitVec.ofNat 3 il⟩ :=
  ⟨_, _, rfl⟩

/-- Settles O20: Horner's rule is the sum over the positions, and the zero test reads the components written. -/
theorem rsSynEvaluatesReceivedPolynomial : Obligations.RsSynEvaluatesReceivedPolynomial := by
  intro s il hc hil
  refine ⟨(rsSynBody il s).complete .ok, exec_of_interleave List.mem_cons_self hc hil, ?frame, fun i hi => ?entry,
    ?test⟩
  case frame =>
    obtain ⟨syn, synNz, h⟩ := rsSynBody_eq il s
    rw [h, complete_ok]
    rfl
  case entry => rw [syn_congr (State.complete_rs _ _), syn_rsSynBody il s hi]
  case test =>
    simp only [syn_congr (State.complete_rs _ _), State.complete_rs]
    exact synNz_rsSynBody il s

/-! ### First causes (R232) -/

/-- The model's `flag(c)` is the claims' (R232). -/
theorem flagIf_eq_flagged (st : RsStage) (raised : Bool) (c : BitVec 2) : st.flagIf raised c = flagged st raised c := by
  obtain ⟨l, nloc, uncorr, cause, synNz, il⟩ := st
  cases raised <;> cases uncorr <;> rfl

/-! ### RS_CHIEN (R244, R245) -/

theorem gexp_invExp_mul (basis : Bool) (c : CfgRegs) (l i : Nat) :
    gexp basis (c.invExp l * i) = gexp basis (inverseExp c l * i) :=
  gexp_mul_congr basis (Nat.mod_mod _ _) i

theorem sigmaAt_eq_locatorAt (s : State) (l : Nat) : s.sigmaAt l = locatorAt s l :=
  xorOver_range_congr fun i _ => by rw [gexp_invExp_mul]

/-- The real locations in stream order, from `254 - VF` down to 0 (R230). -/
theorem mem_locations {c : CfgRegs} (hc : RsOk c) (l : Nat) :
    l ∈ (List.range c.NSYM).map (fun p => 254 - c.VF - p) ↔ l + c.VF ≤ 254 := by
  have hVF := VF_le_of_rsOk hc
  simp only [List.mem_map, List.mem_range, CfgRegs.NSYM]
  exact ⟨fun ⟨p, hp, h⟩ => by omega, fun h => ⟨254 - c.VF - l, by omega, by omega⟩⟩

theorem locations_descending (c : CfgRegs) :
    ((List.range c.NSYM).map fun p => 254 - c.VF - p).Pairwise fun l l' => l' < l := by
  have rising : (List.range c.NSYM).Pairwise fun p p' => p < p' ∧ p' < c.NSYM :=
    (List.pairwise_lt_range (n := c.NSYM)).imp_of_mem fun _ hp' h => ⟨h, List.mem_range.mp hp'⟩
  refine List.pairwise_map.mpr (rising.imp fun h => ?_)
  have : c.NSYM = 255 - c.VF := rfl
  omega

theorem mem_roots {s : State} (hc : RsOk s.cfg) (l : Nat) :
    l ∈ s.roots ↔ l + s.cfg.VF ≤ 254 ∧ locatorAt s l = 0 := by
  rw [State.roots, List.mem_filter, mem_locations hc, sigmaAt_eq_locatorAt, decide_eq_true_iff]

theorem loc_rsChienBody (s : State) {k : Nat} (hk : k < 32) :
    (rsChienBody s).loc k = BitVec.ofNat 8 (s.roots.getD k 0) := by
  simp only [State.loc, rsChienBody, State.setStage_rs, State.setScratch_rs, scratchOf_getD, if_pos hk]

/-- What RS_CHIEN writes: `LOC`, `NLOC`, and the second cause for a count other than `L` (R244). -/
theorem rsChienBody_eq (s : State) : ∃ loc, rsChienBody s = (s.setScratch { s.rs.scratch with loc := loc }).setStage
    (flagged { s.rs.stage with nloc := BitVec.ofNat 8 s.roots.length }
      (decide (s.roots.length ≠ s.rs.stage.l.toNat)) 2) :=
  ⟨_, by rw [← flagIf_eq_flagged]; rfl⟩

/-- Settles O23: the search filters the real locations, which descend in stream order, by the locator's value. -/
theorem rsChienFindsLocatorRoots : Obligations.RsChienFindsLocatorRoots := by
  intro s hc
  refine ⟨(rsChienBody s).complete .ok, s.roots, exec_of_rsOk (by simp) hc, (locations_descending s.cfg).filter _,
    mem_roots hc, ?frame, roots_length_le s, fun k hk => ?entry⟩
  case frame =>
    obtain ⟨loc, h⟩ := rsChienBody_eq s
    rw [h, complete_ok]
    rfl
  case entry => rw [State.loc_congr (State.complete_rs _ _), loc_rsChienBody s hk]

/-! ### RS_FORNEY (R246, R247) -/

/-- The odd indices up to `2T` are `2i + 1` for `i < T`. -/
theorem xorOver_odd (f : Nat → Byte) (n : Nat) :
    xorOver ((List.range (2 * n + 1)).filter fun i => i % 2 = 1) f = xorOver (List.range n) fun i => f (2 * i + 1) := by
  induction n with
  | zero => rfl
  | succ n ih =>
    have two_more : (List.range (2 * (n + 1) + 1)).filter (fun i => i % 2 = 1) =
        (List.range (2 * n + 1)).filter (fun i => i % 2 = 1) ++ [2 * n + 1] := by
      rw [show 2 * (n + 1) + 1 = 2 * n + 1 + 1 + 1 by omega, List.range_succ, List.range_succ (n := 2 * n + 1)]
      simp [List.filter_append, Nat.add_mod]
    rw [two_more, xorOver_append, ih, xorOver_range_succ, xorOver_cons, xorOver_nil, byte_xor_zero]

theorem derivAt_eq_derivativeAt (s : State) (l : Nat) : s.derivAt l = derivativeAt s l := by
  rw [State.derivAt, xorOver_odd]
  exact xorOver_range_congr fun i _ => by rw [gexp_invExp_mul, Nat.add_sub_cancel]

theorem omega_rsForneyBody (s : State) {i : Nat} (hi : i < 32) :
    (rsForneyBody s).omega i = if i < 2 * s.cfg.T then s.evaluator i else 0 := by
  simp only [State.omega, rsForneyBody, State.setStage_rs, State.setScratch_rs, scratchOf_getD, if_pos hi]

theorem sigma_rsForneyBody (s : State) (i : Nat) : (rsForneyBody s).sigma i = s.sigma i := by
  simp only [State.sigma, rsForneyBody, State.setStage_rs, State.setScratch_rs]

theorem evaluatorAt_eq {s : State} (hc : RsOk s.cfg) (l : Nat) :
    s.evaluatorAt l = evaluatorValue (rsForneyBody s) l := by
  have hT := T_le_of_rsOk hc
  rw [State.evaluatorAt, polyEval, evaluatorValue, rsForneyBody_cfg]
  refine xorOver_range_congr fun i hi => ?_
  rw [gexp_invExp_mul, omega_rsForneyBody s (by omega), if_pos hi, basis_congr (rsForneyBody_cfg s)]

/-- Forney's quotient and the power of the locator, added as logarithms (R246, R247). -/
theorem gexp_magExp (basis : Bool) (c : CfgRegs) {num den : Byte} (hnum : num ≠ 0) (hden : den ≠ 0) (l : Nat) :
    gexp basis (magExp basis c num den l) =
      gmul basis (gexp basis (c.POA * l % 255 * ((256 - c.MO) % 255))) (gdiv basis num den) := by
  obtain ⟨i, hi, rfl⟩ := exists_alog basis hnum
  obtain ⟨j, hj, rfl⟩ := exists_alog basis hden
  have hMO : c.MO < 256 := c.rsGen.mo.isLt
  have offset : (1 - (c.MO : Int)) % 255 = ((256 - c.MO) % 255 : Nat) := by omega
  rw [gdiv_alog basis i j hj, gexp, gexp, gmul_alog, magExp, glog_alog basis hi, glog_alog basis hj, offset]
  refine alog_congr basis ?_
  rw [← Int.natCast_mul]
  omega

theorem errorValue_congr {s t : State} (hcfg : s.cfg = t.cfg) (hrs : s.rs = t.rs) (l : Nat) :
    errorValue s l = errorValue t l := by
  have hder : derivativeAt s l = derivativeAt t l := by
    simp only [derivativeAt, hcfg, basis_congr hcfg, sigma_congr hrs]
  have heval : evaluatorValue s l = evaluatorValue t l := by
    simp only [evaluatorValue, hcfg, basis_congr hcfg, omega_congr hrs]
  simp only [errorValue, hder, heval, hcfg, basis_congr hcfg]

theorem magnitude_eq_errorValue {s : State} (hc : RsOk s.cfg) (l : Nat) :
    s.magnitude l = errorValue (rsForneyBody s) l := by
  have hder : derivativeAt (rsForneyBody s) l = s.derivAt l := by
    rw [derivAt_eq_derivativeAt]
    simp only [derivativeAt, rsForneyBody_cfg, basis_congr (rsForneyBody_cfg s), sigma_rsForneyBody]
  rw [State.magnitude, errorValue, hder, ← evaluatorAt_eq hc, rsForneyBody_cfg, basis_congr (rsForneyBody_cfg s)]
  by_cases hden : s.derivAt l = 0
  · rw [if_pos hden, if_pos hden]
  rw [if_neg hden, if_neg hden]
  by_cases hnum : s.evaluatorAt l = 0
  · rw [if_pos hnum, hnum, gdiv, if_pos rfl, gmul_zero_right]
  · rw [if_neg hnum]
    exact gexp_magExp s.basis s.cfg hnum hden l

theorem mag_rsForneyBody {s : State} (hc : RsOk s.cfg) {k : Nat} (hk : k < 32) : (rsForneyBody s).mag k =
    if k < min s.rs.stage.nloc.toNat 32 then errorValue (rsForneyBody s) (s.loc k).toNat else 0 := by
  rw [← magnitude_eq_errorValue hc]
  simp only [State.mag, rsForneyBody, State.setStage_rs, State.setScratch_rs, scratchOf_getD, if_pos hk]
  rfl

/-- What RS_FORNEY writes: `OMEGA`, `MAG`, and the third cause where a derivative is 0 (R246). -/
theorem rsForneyBody_eq (s : State) : ∃ omega mag,
    rsForneyBody s = (s.setScratch { s.rs.scratch with omega := omega, mag := mag }).setStage
      (flagged s.rs.stage (decide (∃ k < min s.rs.stage.nloc.toNat 32, derivativeAt s (s.loc k).toNat = 0)) 3) := by
  have zero_derivative : decide (∃ k < min s.rs.stage.nloc.toNat 32, derivativeAt s (s.loc k).toNat = 0) =
      (List.range s.locCount).any fun k => decide (s.derivAt (s.loc k).toNat = 0) := by
    simp only [any_range_eq_decide, derivAt_eq_derivativeAt, State.locCount]
  exact ⟨_, _, by rw [zero_derivative, ← flagIf_eq_flagged]; rfl⟩

/-- Settles O24: the logarithms of R246 add up to the product and quotient of R247. -/
theorem rsForneyComputesMagnitudes : Obligations.RsForneyComputesMagnitudes := by
  intro s hc
  refine ⟨(rsForneyBody s).complete .ok, exec_of_rsOk (by simp) hc, ?frame, fun i hi => ?evaluator,
    fun k hk => ?magnitude⟩
  case frame =>
    obtain ⟨omega, mag, h⟩ := rsForneyBody_eq s
    rw [h, complete_ok]
    rfl
  case evaluator =>
    rw [omega_congr (State.complete_rs _ _), omega_rsForneyBody s hi]
    rfl
  case magnitude =>
    rw [State.mag_congr (State.complete_rs _ _), mag_rsForneyBody hc hk,
      errorValue_congr (State.complete_cfg _ _) (State.complete_rs _ _)]

/-! ### RS_CORR (R248) -/

/-- Which corrections fall on an address (R230, R248). -/
theorem corrAddr_eq_some_iff (s : State) (il k a : Nat) : corrAddr s il k = some a ↔
    (s.loc k).toNat + s.cfg.VF ≤ 254 ∧
      0x1000 + s.cfg.S + (254 - (s.loc k).toNat - s.cfg.VF) * s.cfg.I + il = a := by
  simp only [corrAddr, State.symbolIndex, Option.ite_none_right_eq_some, Option.some.injEq, fbBase, Nat.add_assoc]

/-- The sum of the magnitudes located at an address (R248). -/
def correctionAt (s : State) (il a : Nat) : Byte :=
  xorOver ((List.range s.locCount).filter fun k => decide (corrAddr s il k = some a)) s.mag

/-- Corrections go by the configuration and the RS registers alone. -/
theorem correctionAt_congr {s t : State} (hcfg : t.cfg = s.cfg) (hrs : t.rs = s.rs) (il a : Nat) :
    correctionAt t il a = correctionAt s il a := by
  have haddr : corrAddr t il = corrAddr s il := funext fun k => by
    simp only [corrAddr, State.loc_congr hrs, State.symbolIndex, hcfg]
  simp only [correctionAt, State.locCount, haddr, hrs, funext (State.mag_congr hrs)]

theorem correctionAt_eq (s : State) (il a : Nat) : correctionAt s il a =
    xorOver ((List.range (min s.rs.stage.nloc.toNat 32)).filter fun k =>
      decide ((s.loc k).toNat + s.cfg.VF ≤ 254 ∧
        0x1000 + s.cfg.S + (254 - (s.loc k).toNat - s.cfg.VF) * s.cfg.I + il = a)) s.mag := by
  simp only [correctionAt, corrAddr_eq_some_iff, State.locCount]

theorem rsCorrBody_of_uncorr {il : Nat} {s : State} (h : s.rs.stage.uncorr = true) : rsCorrBody il s = s := by
  rw [rsCorrBody, if_pos h]

/-- RS_CORR run again on the state it leaves, completed or not, undoes itself (R248). -/
theorem byteAt_rsCorrBody_twice (il : Nat) {s t : State} (hcfg : t.cfg = s.cfg) (hrs : t.rs = s.rs)
    (hmem : t.mem = (rsCorrBody il s).mem) (a : Nat) : (rsCorrBody il t).byteAt a = s.byteAt a := by
  have ht : t.byteAt a = (rsCorrBody il s).byteAt a := State.byteAt_congr hmem a
  cases hu : s.rs.stage.uncorr with
  | true => rw [rsCorrBody_of_uncorr (hrs ▸ hu), ht, rsCorrBody_of_uncorr hu]
  | false =>
    rw [byteAt_rsCorrBody il t a (hrs ▸ hu), ht, byteAt_rsCorrBody il s a hu, ← correctionAt, ← correctionAt,
      correctionAt_congr hcfg hrs, BitVec.xor_assoc, byte_xor_self, byte_xor_zero]

/-- Settles O25: every byte takes the sum of the magnitudes located at it, and a sum taken twice cancels. -/
theorem rsCorrAppliesMagnitudes : Obligations.RsCorrAppliesMagnitudes := by
  intro s il hc hil
  have run (s : State) (hc : FrameOk s.cfg) (hil : il < s.cfg.I) :
      exec (.rsCorr il) s = .next ((rsCorrBody il s).complete .ok) :=
    exec_of_interleave (i := .rsCorr il) (by simp) hc hil
  have hcfg : ((rsCorrBody il s).complete .ok).cfg = s.cfg := rsCorrBody_cfg il s
  refine ⟨_, _, run s hc hil, ?frame, fun hu => ?uncorrectable, fun hu a => ?corrected,
    run _ (hcfg ▸ hc) (hcfg ▸ hil), fun a => ?undone⟩
  case frame => rw [complete_ok, rsCorrBody_memOnly il s]
  case uncorrectable => rw [State.complete_mem, rsCorrBody_of_uncorr hu]
  case corrected => rw [State.byteAt_complete, byteAt_rsCorrBody il s a hu, ← correctionAt, correctionAt_eq]
  case undone =>
    rw [State.byteAt_complete, byteAt_rsCorrBody_twice il hcfg (rsCorrBody_rs il s) rfl]

end Sys2Proof.Proofs
end

section
/-! PROOF. RS_BM (R242): the model's arrays hold the coefficients of R242's loop, and the loop keeps a shortest solution
of the syndrome recurrence, by Massey's argument. -/

namespace Sys2Proof.Proofs
open Sys2Proof.Machine Sys2Proof.Claims

/-! ### Sums over ranges -/

theorem xorOver_map (f : Nat → Byte) (g : Nat → Nat) (l : List Nat) :
    xorOver (l.map g) f = xorOver l fun i => f (g i) := by
  rw [xorOver, List.foldl_map]
  rfl

theorem xorOver_range_succ_first (n : Nat) (f : Nat → Byte) :
    xorOver (List.range (n + 1)) f = f 0 ^^^ xorOver (List.range n) fun i => f (i + 1) := by
  rw [List.range_succ_eq_map, xorOver_cons, xorOver_map]

theorem xorOver_range_one (f : Nat → Byte) : xorOver (List.range 1) f = f 0 := byte_zero_xor (f 0)

theorem xorOver_range_two (f : Nat → Byte) : xorOver (List.range 2) f = f 0 ^^^ f 1 := by
  rw [xorOver_range_succ, xorOver_range_one]

/-- Terms that vanish from `m` on can be left out. -/
theorem xorOver_range_of_vanishing {m n : Nat} (hmn : m ≤ n) {f : Nat → Byte} (h : ∀ i, m ≤ i → i < n → f i = 0) :
    xorOver (List.range n) f = xorOver (List.range m) f := by
  induction n, hmn using Nat.le_induction with
  | base => rfl
  | succ n hmn ih =>
    rw [xorOver_range_succ, ih fun i hi hin => h i hi (by omega), h n hmn (Nat.lt_succ_self n), byte_xor_zero]

/-- The order of two sums does not matter. -/
theorem xorOver_comm (l l' : List Nat) (f : Nat → Nat → Byte) :
    xorOver l (fun i => xorOver l' fun j => f i j) = xorOver l' fun j => xorOver l fun i => f i j := by
  induction l with
  | nil => exact (xorOver_eq_zero fun _ _ => rfl).symm
  | cons i l ih => simp only [xorOver_cons, ih, xorOver_xor]

/-! ### Quotients as products (R206, R207) -/

section
variable (basis : Bool)

theorem gmul_gone (a : Byte) : gmul basis a (gone basis) = a := gmul_one basis a

theorem gone_gmul (a : Byte) : gmul basis (gone basis) a = a := by rw [gmul_comm, gmul_gone]

theorem gmul_left_cancel {x a c : Byte} (hx : x ≠ 0) (h : gmul basis x a = gmul basis x c) : a = c := by
  have undo (b : Byte) : gmul basis (ginv basis x) (gmul basis x b) = b := by
    rw [← gmul_assoc, gmul_comm basis (ginv basis x), gmul_ginv basis hx, gone_gmul]
  rw [← undo a, h, undo]

theorem gdiv_eq_gmul_ginv (a : Byte) {x : Byte} (hx : x ≠ 0) : gdiv basis a x = gmul basis (ginv basis x) a :=
  gmul_left_cancel basis hx (by rw [gmul_gdiv basis a hx, ← gmul_assoc, gmul_ginv basis hx, gone_gmul])

theorem gdiv_zero (x : Byte) : gdiv basis 0 x = 0 := if_pos rfl

theorem gdiv_self {x : Byte} (hx : x ≠ 0) : gdiv basis x x = gone basis := by
  rw [gdiv_eq_gmul_ginv basis x hx, gmul_comm, gmul_ginv basis hx]

end

/-! ### Coefficients of a product of two power series -/

/-- The coefficient of `z^n` in the product of the power series `c` and `syn`. -/
def productCoeff (basis : Bool) (c syn : Nat → Byte) (n : Nat) : Byte :=
  xorOver (List.range (n + 1)) fun i => gmul basis (c i) (syn (n - i))

/-- `z * D(z)` (R242). -/
def timesZ (d : Nat → Byte) (j : Nat) : Byte := if j = 0 then 0 else d (j - 1)

section
variable (basis : Bool) (c d syn : Nat → Byte)

/-- For a polynomial `c` of degree `len`, a run of `len + 1` components is a coefficient of the product. -/
theorem run_eq_productCoeff {len n : Nat} (hlen : len ≤ n) (hc : ∀ j, len < j → c j = 0) :
    xorOver (List.range (len + 1)) (fun i => gmul basis (c i) (syn (n - i))) = productCoeff basis c syn n :=
  (xorOver_range_of_vanishing (Nat.succ_le_succ hlen) fun i hi _ => by rw [hc i hi, gmul_zero_left]).symm

theorem productCoeff_timesZ (n : Nat) : productCoeff basis (timesZ d) syn (n + 1) = productCoeff basis d syn n := by
  rw [productCoeff, xorOver_range_succ_first]
  have shifted (i : Nat) : gmul basis (timesZ d (i + 1)) (syn (n + 1 - (i + 1))) = gmul basis (d i) (syn (n - i)) := by
    rw [Nat.add_sub_add_right]
    rfl
  simp only [shifted]
  rw [timesZ, if_pos rfl, gmul_zero_left, byte_zero_xor, productCoeff]

theorem productCoeff_add_smul (x : Byte) (n : Nat) :
    productCoeff basis (fun j => c j ^^^ gmul basis x (d j)) syn n =
      productCoeff basis c syn n ^^^ gmul basis x (productCoeff basis d syn n) := by
  simp only [productCoeff, gmul_xor_left, xorOver_xor, gmul_assoc, gmul_xorOver]

theorem productCoeff_gdiv {x : Byte} (hx : x ≠ 0) (n : Nat) :
    productCoeff basis (fun j => gdiv basis (c j) x) syn n = gdiv basis (productCoeff basis c syn n) x := by
  simp only [productCoeff, gdiv_eq_gmul_ginv basis _ hx, gmul_assoc, gmul_xorOver]

end

/-! ### One turn of R242's loop -/

/-- The discrepancy `delta` of the turn after `k` turns (R242). -/
def discrepancy (basis : Bool) (syn : Nat → Byte) (k : Nat) (sig : Nat → Byte) (len : Nat) : Byte :=
  xorOver (List.range (len + 1)) fun i => gmul basis (sig i) (syn (k - i))

section
variable {basis : Bool} {syn : Nat → Byte} {k : Nat} {b : BerlekampMassey} (hb : berlekampMassey basis syn k = b)
include hb

theorem berlekampMassey_of_zero (h : discrepancy basis syn k b.sig b.len = 0) :
    berlekampMassey basis syn (k + 1) = ⟨b.sig, timesZ b.d, b.len⟩ := by
  simp only [discrepancy] at h
  simp only [berlekampMassey, hb, h, if_true, ne_eq, not_true_eq_false, false_and, if_false]
  rfl

theorem berlekampMassey_of_long (h : discrepancy basis syn k b.sig b.len ≠ 0) (hlen : ¬ 2 * b.len < k + 1) :
    berlekampMassey basis syn (k + 1) =
      ⟨fun j => b.sig j ^^^ gmul basis (discrepancy basis syn k b.sig b.len) (b.d j), timesZ b.d, b.len⟩ := by
  simp only [discrepancy] at h ⊢
  simp only [berlekampMassey, hb, h, hlen, and_false, if_false]
  rfl

theorem berlekampMassey_of_short (h : discrepancy basis syn k b.sig b.len ≠ 0) (hlen : 2 * b.len < k + 1) :
    berlekampMassey basis syn (k + 1) =
      ⟨fun j => b.sig j ^^^ gmul basis (discrepancy basis syn k b.sig b.len) (b.d j),
        timesZ fun j => gdiv basis (b.sig j) (discrepancy basis syn k b.sig b.len), k + 1 - b.len⟩ := by
  simp only [discrepancy] at h ⊢
  simp only [berlekampMassey, hb, h, hlen, ne_eq, not_false_eq_true, true_and, if_true, if_false]
  rfl

end

/-! ### What the loop keeps -/

/-- After `k` turns `sig`, of degree `L = len`, solves the recurrence on the first `k` components; and `D`, of degree
`k + 1 - L`, solves it on them and sums to `ONE` on the next run, so that `D` times the discrepancy mends `sig`. -/
structure LoopInv (basis : Bool) (syn : Nat → Byte) (k : Nat) (sig d : Nat → Byte) (len : Nat) : Prop where
  len_le : len ≤ k
  sig_first : sig 0 = gone basis
  sig_degree : ∀ j, len < j → sig j = 0
  d_first : d 0 = 0
  d_degree : ∀ j, k + 1 < len + j → d j = 0
  sig_solves : ∀ n, len ≤ n → n < k → productCoeff basis sig syn n = 0
  d_solves : ∀ n, k + 1 ≤ len + n → n < k → productCoeff basis d syn n = 0
  d_next : 1 ≤ len → productCoeff basis d syn k = gone basis

theorem loopInv_start (basis : Bool) (syn : Nat → Byte) :
    LoopInv basis syn 0 (fun j => if j = 0 then gone basis else 0) (fun j => if j = 1 then gone basis else 0) 0 where
  len_le := Nat.le_refl 0
  sig_first := rfl
  sig_degree := fun j hj => if_neg (Nat.ne_of_gt hj)
  d_first := rfl
  d_degree := fun j hj => if_neg (by omega)
  sig_solves := fun n _ hn => absurd hn (Nat.not_lt_zero n)
  d_solves := fun n _ hn => absurd hn (Nat.not_lt_zero n)
  d_next := fun h => absurd h (by decide)

namespace LoopInv
variable {basis : Bool} {syn : Nat → Byte} {k len : Nat} {sig d : Nat → Byte} (h : LoopInv basis syn k sig d len)
include h

theorem discrepancy_eq : discrepancy basis syn k sig len = productCoeff basis sig syn k :=
  run_eq_productCoeff basis sig syn h.len_le h.sig_degree

/-- Where `sig'` of the same length answers the next component too, `D` is only multiplied by `z`. -/
theorem shift_d {sig' : Nat → Byte} (hfirst : sig' 0 = gone basis) (hdegree : ∀ j, len < j → sig' j = 0)
    (hsolves : ∀ n, len ≤ n → n < k + 1 → productCoeff basis sig' syn n = 0) :
    LoopInv basis syn (k + 1) sig' (timesZ d) len where
  len_le := Nat.le_succ_of_le h.len_le
  sig_first := hfirst
  sig_degree := hdegree
  d_first := rfl
  d_degree := fun j hj => by
    have := h.len_le
    exact (if_neg (by omega)).trans (h.d_degree (j - 1) (by omega))
  sig_solves := hsolves
  d_solves := fun n hle hn => by
    have := h.len_le
    obtain ⟨n, rfl⟩ : ∃ m, n = m + 1 := ⟨n - 1, by omega⟩
    rw [productCoeff_timesZ, h.d_solves n (by omega) (by omega)]
  d_next := fun hlen => by rw [productCoeff_timesZ, h.d_next hlen]

/-- Adding a multiple of `D` keeps the constant term. -/
theorem mended_first (x : Byte) : sig 0 ^^^ gmul basis x (d 0) = gone basis := by
  rw [h.d_first, gmul_zero_right, h.sig_first, byte_xor_zero]

/-- Adding a multiple of `D` keeps to the degrees of both. -/
theorem mended_degree (x : Byte) {j : Nat} (hj : len < j) (hj' : k + 1 < len + j) :
    sig j ^^^ gmul basis x (d j) = 0 := by
  rw [h.sig_degree j hj, h.d_degree j hj', gmul_zero_right, byte_xor_zero]

/-- Adding `D` times the discrepancy answers the next component, and every earlier one that both answer. -/
theorem mended_solves {n : Nat} (hlen : len ≤ n) (hd : k + 1 ≤ len + n) (hn : n < k + 1) :
    productCoeff basis (fun j => sig j ^^^ gmul basis (discrepancy basis syn k sig len) (d j)) syn n = 0 := by
  rw [productCoeff_add_smul]
  obtain hlt | rfl := Nat.lt_succ_iff_lt_or_eq.mp hn
  · rw [h.sig_solves n hlen hlt, h.d_solves n hd hlt, gmul_zero_right, byte_xor_zero]
  · rw [h.d_next (by omega), gmul_gone, h.discrepancy_eq, byte_xor_self]

/-- No discrepancy: `sig` answers the next component. -/
theorem next_of_zero (hzero : discrepancy basis syn k sig len = 0) : LoopInv basis syn (k + 1) sig (timesZ d) len := by
  refine h.shift_d h.sig_first h.sig_degree fun n hlen hn => ?_
  obtain hlt | rfl := Nat.lt_succ_iff_lt_or_eq.mp hn
  · exact h.sig_solves n hlen hlt
  · rw [← h.discrepancy_eq, hzero]

/-- A discrepancy where `L` is long enough: `D` is no longer than `sig`, and `sig` is mended. -/
theorem next_of_long (hlen : ¬ 2 * len < k + 1) :
    LoopInv basis syn (k + 1) (fun j => sig j ^^^ gmul basis (discrepancy basis syn k sig len) (d j)) (timesZ d) len :=
  h.shift_d (h.mended_first _) (fun j hj => h.mended_degree _ hj (by omega)) fun n hle hn =>
    h.mended_solves hle (by omega) hn

/-- A discrepancy where `L` is too short: `sig` is mended to the length of `D`, and the old `sig` is the new `D`. -/
theorem next_of_short (hdelta : discrepancy basis syn k sig len ≠ 0) (hlen : 2 * len < k + 1) :
    LoopInv basis syn (k + 1) (fun j => sig j ^^^ gmul basis (discrepancy basis syn k sig len) (d j))
      (timesZ fun j => gdiv basis (sig j) (discrepancy basis syn k sig len)) (k + 1 - len) where
  len_le := Nat.sub_le _ _
  sig_first := h.mended_first _
  sig_degree := fun j hj => h.mended_degree _ (by omega) (by omega)
  d_first := rfl
  d_degree := fun j hj => by
    refine (if_neg (by omega)).trans ?_
    simp only [h.sig_degree (j - 1) (by omega), gdiv_zero]
  sig_solves := fun n hle hn => h.mended_solves (by omega) (by omega) hn
  d_solves := fun n hle hn => by
    obtain ⟨n, rfl⟩ : ∃ m, n = m + 1 := ⟨n - 1, by omega⟩
    rw [productCoeff_timesZ, productCoeff_gdiv basis _ syn hdelta, h.sig_solves n (by omega) (by omega), gdiv_zero]
  d_next := fun _ => by
    rw [productCoeff_timesZ, productCoeff_gdiv basis _ syn hdelta, ← h.discrepancy_eq, gdiv_self basis hdelta]

end LoopInv

theorem loopInv_berlekampMassey (basis : Bool) (syn : Nat → Byte) (k : Nat) :
    LoopInv basis syn k (berlekampMassey basis syn k).sig (berlekampMassey basis syn k).d
      (berlekampMassey basis syn k).len := by
  induction k with
  | zero => exact loopInv_start basis syn
  | succ k ih =>
    generalize hb : berlekampMassey basis syn k = b at ih
    by_cases hdelta : discrepancy basis syn k b.sig b.len = 0
    · rw [berlekampMassey_of_zero hb hdelta]
      exact ih.next_of_zero hdelta
    by_cases hlen : 2 * b.len < k + 1
    · rw [berlekampMassey_of_short hb hdelta hlen]
      exact ih.next_of_short hdelta hlen
    · rw [berlekampMassey_of_long hb hdelta hlen]
      exact ih.next_of_long hlen

/-! ### `L` is minimal (R242) -/

/-- Massey's bound: `sig` of length `len` solves the recurrence on `k` components and fails on the next; whoever solves
it on all `k + 1` is longer than `k - len`. The double sum of both against the components is 0 by the rows of `c`, and
the discrepancy by the rows of `sig`. -/
theorem lt_of_recurrence {basis : Bool} {syn c sig : Nat → Byte} {k len len' : Nat}
    (hsig : Recurrence basis syn k len sig) (hdelta : discrepancy basis syn k sig len ≠ 0) (hfirst : c 0 = gone basis)
    (hc : Recurrence basis syn (k + 1) len' c) : k < len + len' := by
  by_contra hle
  let term (i j : Nat) : Byte := gmul basis (sig i) (gmul basis (c j) (syn (k - i - j)))
  have by_c : (xorOver (List.range (len + 1)) fun i => xorOver (List.range (len' + 1)) fun j => term i j) = 0 :=
    xorOver_eq_zero fun i hi => by
      have hi : i < len + 1 := List.mem_range.mp hi
      rw [← gmul_xorOver, hc (k - i) (by omega) (by omega), gmul_zero_right]
  have by_sig (j : Nat) : (xorOver (List.range (len + 1)) fun i => term i j) =
      gmul basis (c j) (discrepancy basis syn (k - j) sig len) := by
    rw [discrepancy, gmul_xorOver]
    refine xorOver_congr fun i _ => ?_
    rw [← gmul_assoc, gmul_comm basis (c j), gmul_assoc, Nat.sub_right_comm]
  have later (j : Nat) (hj : j < len') : gmul basis (c (j + 1)) (discrepancy basis syn (k - (j + 1)) sig len) = 0 := by
    rw [discrepancy, hsig (k - (j + 1)) (by omega) (by omega), gmul_zero_right]
  rw [xorOver_comm] at by_c
  simp only [by_sig] at by_c
  rw [xorOver_range_succ_first, xorOver_eq_zero fun j hj => later j (List.mem_range.mp hj), byte_xor_zero, hfirst,
    gone_gmul] at by_c
  exact hdelta by_c

theorem LoopInv.recurrence {basis : Bool} {syn : Nat → Byte} {k len : Nat} {sig d : Nat → Byte}
    (h : LoopInv basis syn k sig d len) : Recurrence basis syn k len sig := fun n hlen hn => by
  rw [run_eq_productCoeff basis sig syn hlen h.sig_degree, h.sig_solves n hlen hn]

/-- No recurrence with constant term `ONE` on the first `k` components is shorter than `L` after `k` turns. -/
theorem berlekampMassey_len_le (basis : Bool) (syn : Nat → Byte) (k : Nat) {len : Nat} {c : Nat → Byte}
    (hfirst : c 0 = gone basis) (hc : Recurrence basis syn k len c) : (berlekampMassey basis syn k).len ≤ len := by
  induction k with
  | zero => exact Nat.zero_le len
  | succ k ih =>
    have hle := ih fun n hn hk => hc n hn (Nat.lt_succ_of_lt hk)
    have hinv := loopInv_berlekampMassey basis syn k
    generalize hb : berlekampMassey basis syn k = b at hle hinv
    by_cases hdelta : discrepancy basis syn k b.sig b.len = 0
    · rw [berlekampMassey_of_zero hb hdelta]
      exact hle
    by_cases hlen : 2 * b.len < k + 1
    · rw [berlekampMassey_of_short hb hdelta hlen]
      have := lt_of_recurrence hinv.recurrence hdelta hfirst hc
      exact Nat.sub_le_iff_le_add'.mpr this
    · rw [berlekampMassey_of_long hb hdelta hlen]
      exact hle

/-! ### The model's arrays (R242) -/

/-- The model's loop state holds the first `n` coefficients of R242's loop variables. -/
structure Holds (n : Nat) (m : BmState) (b : BerlekampMassey) : Prop where
  sig_length : m.sig.length = n
  d_length : m.d.length = n
  sig_entry : ∀ j < n, m.sig.getD j 0 = b.sig j
  d_entry : ∀ j < n, m.d.getD j 0 = b.d j
  l_eq : m.l = b.len

theorem holds_bmInit (basis : Bool) (syn : Nat → Byte) (t : Nat) :
    Holds (2 * t + 2) (bmInit basis t) (berlekampMassey basis syn 0) where
  sig_length := by simp [bmInit]
  d_length := by simp [bmInit]
  sig_entry := fun j hj => by
    rcases j with - | j
    · rfl
    · exact List.getD_replicate 0 (by omega)
  d_entry := fun j hj => by
    rcases j with - | - | j
    · rfl
    · rfl
    · exact List.getD_replicate 0 (by omega)
  l_eq := rfl

theorem length_bmShift {d : List Byte} {n : Nat} (hn : 0 < n) (h : d.length = n) : (bmShift d).length = n := by
  rw [bmShift, List.length_cons, List.length_dropLast, h]
  omega

theorem getD_bmShift {d : List Byte} {f : Nat → Byte} {n : Nat} (h : d.length = n) (hf : ∀ j < n, d.getD j 0 = f j)
    {j : Nat} (hj : j < n) : (bmShift d).getD j 0 = timesZ f j := by
  cases j with
  | zero => rfl
  | succ j =>
    refine Eq.trans ?_ (hf j (by omega))
    rw [bmShift, List.getD_cons_succ, List.getD_eq_getElem?_getD, List.getD_eq_getElem?_getD, List.getElem?_dropLast,
      if_pos (by omega)]

namespace Holds
variable {basis : Bool} {syn : Nat → Byte} {n k : Nat} {m : BmState} {b : BerlekampMassey} (h : Holds n m b)
include h

theorem bmDelta_eq (hl : b.len < n) : bmDelta basis syn (k + 1) m = discrepancy basis syn k b.sig b.len := by
  rw [bmDelta, discrepancy, h.l_eq, Nat.add_sub_cancel]
  exact xorOver_range_congr fun i hi => by rw [h.sig_entry i (by omega)]

theorem shift (hn : 0 < n) : Holds n ⟨m.sig, bmShift m.d, b.len⟩ ⟨b.sig, timesZ b.d, b.len⟩ :=
  ⟨h.sig_length, length_bmShift hn h.d_length, h.sig_entry, fun _ => getD_bmShift h.d_length h.d_entry, rfl⟩

theorem mended_length (x : Byte) :
    (List.zipWith (fun sj dj => sj ^^^ gmul basis x dj) m.sig m.d).length = n := by
  rw [List.length_zipWith, h.sig_length, h.d_length, Nat.min_self]

theorem mended_entry (x : Byte) {j : Nat} (hj : j < n) :
    (List.zipWith (fun sj dj => sj ^^^ gmul basis x dj) m.sig m.d).getD j 0 = b.sig j ^^^ gmul basis x (b.d j) := by
  have hs : j < m.sig.length := h.sig_length ▸ hj
  have hd : j < m.d.length := h.d_length ▸ hj
  rw [← h.sig_entry j hj, ← h.d_entry j hj, List.getD_eq_getElem _ _ (by rw [h.mended_length]; exact hj),
    List.getD_eq_getElem _ _ hs, List.getD_eq_getElem _ _ hd, List.getElem_zipWith]

theorem divided_entry (x : Byte) {j : Nat} (hj : j < n) :
    (m.sig.map fun sj => gdiv basis sj x).getD j 0 = gdiv basis (b.sig j) x := by
  rw [← h.sig_entry j hj, ← List.getD_map (f := fun sj => gdiv basis sj x), gdiv_zero]

theorem mend_and_shift (hn : 0 < n) (x : Byte) :
    Holds n ⟨List.zipWith (fun sj dj => sj ^^^ gmul basis x dj) m.sig m.d, bmShift m.d, b.len⟩
      ⟨fun j => b.sig j ^^^ gmul basis x (b.d j), timesZ b.d, b.len⟩ :=
  ⟨h.mended_length x, length_bmShift hn h.d_length, fun _ => h.mended_entry x,
    fun _ => getD_bmShift h.d_length h.d_entry, rfl⟩

theorem mend_and_exchange (hn : 0 < n) (x : Byte) :
    Holds n ⟨List.zipWith (fun sj dj => sj ^^^ gmul basis x dj) m.sig m.d,
        bmShift (m.sig.map fun sj => gdiv basis sj x), k + 1 - b.len⟩
      ⟨fun j => b.sig j ^^^ gmul basis x (b.d j), timesZ fun j => gdiv basis (b.sig j) x, k + 1 - b.len⟩ := by
  have hlength : (m.sig.map fun sj => gdiv basis sj x).length = n := by rw [List.length_map, h.sig_length]
  exact ⟨h.mended_length x, length_bmShift hn hlength, fun _ => h.mended_entry x,
    fun _ => getD_bmShift hlength fun _ => h.divided_entry x, rfl⟩

end Holds

/-- One turn of the model's loop is one turn of R242's, as long as `L` is within the arrays. -/
theorem holds_bmStep {basis : Bool} {syn : Nat → Byte} {n k : Nat} {m : BmState}
    (h : Holds n m (berlekampMassey basis syn k)) (hk : k < n) :
    Holds n (bmStep basis syn m (k + 1)) (berlekampMassey basis syn (k + 1)) := by
  have hlen := (loopInv_berlekampMassey basis syn k).len_le
  generalize hb : berlekampMassey basis syn k = b at h hlen
  have hn : 0 < n := Nat.zero_lt_of_lt hk
  rw [bmStep, h.bmDelta_eq (by omega), h.l_eq]
  by_cases hdelta : discrepancy basis syn k b.sig b.len = 0
  · rw [berlekampMassey_of_zero hb hdelta, if_pos hdelta]
    exact h.shift hn
  rw [if_neg hdelta]
  by_cases hshort : 2 * b.len < k + 1
  · rw [berlekampMassey_of_short hb hdelta hshort, if_pos hshort]
    exact h.mend_and_exchange hn _
  · rw [berlekampMassey_of_long hb hdelta hshort, if_neg hshort]
    exact h.mend_and_shift hn _

theorem holds_bmRun (basis : Bool) (t : Nat) (syn : Nat → Byte) :
    Holds (2 * t + 2) (bmRun basis t syn) (berlekampMassey basis syn (2 * t)) := by
  have turns (k : Nat) (hk : k ≤ 2 * t) : Holds (2 * t + 2)
      ((List.range k).foldl (fun b k => bmStep basis syn b (k + 1)) (bmInit basis t))
      (berlekampMassey basis syn k) := by
    induction k with
    | zero => exact holds_bmInit basis syn t
    | succ k ih =>
      rw [List.range_succ, List.foldl_append]
      exact holds_bmStep (ih (by omega)) (by omega)
  exact turns (2 * t) (Nat.le_refl _)

/-! ### RS_BM (R242) -/

/-- R242's loop on the state's syndrome. -/
def stateLoop (s : State) : BerlekampMassey := berlekampMassey s.basis s.syn (2 * s.cfg.T)

theorem loopInv_stateLoop (s : State) :
    LoopInv s.basis s.syn (2 * s.cfg.T) (stateLoop s).sig (stateLoop s).d (stateLoop s).len :=
  loopInv_berlekampMassey s.basis s.syn (2 * s.cfg.T)

/-- What RS_BM writes: `SIGMA`, `L`, and the first cause for an `L` above `T` (R242). -/
theorem rsBmBody_eq (s : State) : ∃ sigma, rsBmBody s = (s.setScratch { s.rs.scratch with sigma := sigma }).setStage
    (flagged { s.rs.stage with l := BitVec.ofNat 6 (stateLoop s).len } (decide (s.cfg.T < (stateLoop s).len)) 1) := by
  have hlen : (stateLoop s).len = (bmRun s.basis s.cfg.T s.syn).l := (holds_bmRun s.basis s.cfg.T s.syn).l_eq.symm
  exact ⟨_, by rw [← flagIf_eq_flagged, hlen]; rfl⟩

theorem sigma_rsBmBody (s : State) {j : Nat} (hj : j < 34) :
    (rsBmBody s).sigma j = if j ≤ 2 * s.cfg.T then (stateLoop s).sig j else 0 := by
  have entry : (rsBmBody s).sigma j = if j ≤ 2 * s.cfg.T then (bmRun s.basis s.cfg.T s.syn).sig.getD j 0 else 0 := by
    simp only [State.sigma, rsBmBody, State.setStage_rs, State.setScratch_rs, scratchOf_getD, if_pos hj]
  rw [entry]
  by_cases hle : j ≤ 2 * s.cfg.T
  · rw [if_pos hle, if_pos hle, (holds_bmRun s.basis s.cfg.T s.syn).sig_entry j (by omega)]
    rfl
  · rw [if_neg hle, if_neg hle]

/-- `SIGMA` holds the whole locator (R242). -/
theorem sigma_rsBmBody_eq_sig {s : State} {j : Nat} (hj : j < 34) : (rsBmBody s).sigma j = (stateLoop s).sig j := by
  rw [sigma_rsBmBody s hj]
  refine ite_eq_left_iff.mpr fun hlt => ?_
  have := (loopInv_stateLoop s).len_le
  exact ((loopInv_stateLoop s).sig_degree j (by omega)).symm

/-- A zero syndrome is a recurrence of length 0 (R242). -/
theorem stateLoop_len_of_zero {s : State} (h : ∀ i < 2 * s.cfg.T, s.syn i = 0) : (stateLoop s).len = 0 := by
  have trivial_recurrence : Recurrence s.basis s.syn (2 * s.cfg.T) 0 fun _ => gone s.basis := fun k _ hk =>
    xorOver_eq_zero fun i _ => by rw [h (k - i) (by omega), gmul_zero_right]
  exact Nat.le_zero.mp (berlekampMassey_len_le s.basis s.syn (2 * s.cfg.T) rfl trivial_recurrence)

/-- Settles O21: the model's arrays hold the coefficients of R242's loop, whose degrees the loop keeps. -/
theorem rsBmCompletes : Obligations.RsBmCompletes := by
  intro s hc
  have hinv := loopInv_stateLoop s
  refine ⟨(rsBmBody s).complete .ok, exec_of_rsOk (by simp) hc, hinv.len_le, ?frame, fun j hj => ?entry, ?first,
    fun j hlen hj => ?degree, stateLoop_len_of_zero⟩
  case frame =>
    obtain ⟨sigma, h⟩ := rsBmBody_eq s
    rw [h, complete_ok]
    rfl
  case entry => exact (sigma_congr (State.complete_rs _ _) j).trans (sigma_rsBmBody s hj)
  case first => rw [sigma_congr (State.complete_rs _ _), sigma_rsBmBody_eq_sig (by decide), hinv.sig_first]
  case degree => rw [sigma_congr (State.complete_rs _ _), sigma_rsBmBody_eq_sig hj, hinv.sig_degree j hlen]

theorem stage_l_rsBmBody {s : State} (hc : RsOk s.cfg) : (rsBmBody s).rs.stage.l.toNat = (stateLoop s).len := by
  have hlen := (loopInv_stateLoop s).len_le
  have hT := T_le_of_rsOk hc
  obtain ⟨sigma, h⟩ := rsBmBody_eq s
  rw [h]
  exact Nat.mod_eq_of_lt (by omega)

/-- Settles O22: the loop keeps a solution of the recurrence, and Massey's bound makes each raise of `L` necessary. -/
theorem rsBmSolvesSyndromeRecurrence : Obligations.RsBmSolvesSyndromeRecurrence := by
  intro s t hc ht
  have hT := T_le_of_rsOk hc
  have hinv := loopInv_stateLoop s
  obtain rfl : (rsBmBody s).complete .ok = t := by
    rw [exec_of_rsOk (by simp) hc] at ht
    exact Host.Outcome.next.inj ht
  rw [State.complete_rs, stage_l_rsBmBody hc]
  refine ⟨fun k hlen hk => ?_, fun len c hfirst h => berlekampMassey_len_le s.basis s.syn _ hfirst h⟩
  rw [← hinv.recurrence k hlen hk]
  refine xorOver_range_congr fun i hi => ?_
  rw [sigma_congr (State.complete_rs _ _), sigma_rsBmBody_eq_sig (by omega)]

end Sys2Proof.Proofs
end

section
/-! PROOF. The stages of one interleave (R250, R251): the host's commands and the decode's bodies agree on all that the
stages read, and what the stages leave in `RS_STAGE` and in the RAM. -/

namespace Sys2Proof.Proofs
open Sys2Proof.Machine Sys2Proof.Claims

/-! ### What the stages read -/

/-- `s` and `t` agree on what the stage commands read and write: the configuration, the RAM, the scratch and
`RS_STAGE`. -/
structure SameStage (s t : State) : Prop where
  cfg : s.cfg = t.cfg
  mem : s.mem = t.mem
  scratch : s.rs.scratch = t.rs.scratch
  stage : s.rs.stage = t.rs.stage

namespace SameStage

theorem refl (s : State) : SameStage s s := ⟨rfl, rfl, rfl, rfl⟩

theorem complete {s t : State} (h : SameStage s t) (code : ErrCode) : SameStage (s.complete code) t :=
  ⟨h.cfg, h.mem, h.scratch, h.stage⟩

variable {s t : State} (h : SameStage s t)
include h

theorem state_eq : t = { t with
    cfg := s.cfg, mem := s.mem, rs := { t.rs with scratch := s.rs.scratch, stage := s.rs.stage } } := by
  rw [h.cfg, h.mem, h.scratch, h.stage]

theorem corrOne (il k : Nat) : SameStage (corrOne il s k) (corrOne il t k) := by
  have hloc : t.loc k = s.loc k := by simp only [State.loc, h.scratch]
  have hmag : t.mag k = s.mag k := by simp only [State.mag, h.scratch]
  simp only [Machine.corrOne, hloc, hmag, State.symbolIndex, ← h.cfg, State.fb_congr h.mem]
  split
  · exact ⟨h.cfg, congrArg (Memory.store · _ _) h.mem, h.scratch, h.stage⟩
  · exact h

theorem corrFold (il : Nat) (l : List Nat) :
    SameStage (l.foldl (Machine.corrOne il) s) (l.foldl (Machine.corrOne il) t) := by
  induction l generalizing s t with
  | nil => exact h
  | cons k l ih => exact ih (h.corrOne il k)

theorem rsCorrBody (il : Nat) : SameStage (rsCorrBody il s) (rsCorrBody il t) := by
  simp only [Machine.rsCorrBody, State.locCount, h.stage]
  split
  · exact h
  · exact h.corrFold il _

/-- Two chains that each run a stage unless the codeword is uncorrectable take the same branch. -/
theorem skipIf {s' t' : State} (h' : SameStage s' t') :
    SameStage (if s.rs.stage.uncorr then s else s') (if t.rs.stage.uncorr then t else t') := by
  rw [h.stage]
  split
  · exact h
  · exact h'

end SameStage

/-! ### The stage commands (R251) -/

/-- The stage commands of an interleave, in the order the host issues them (R251). -/
def stageCommands (il : Nat) : List Instr := [.rsSyn il, .rsBm, .rsChien, .rsForney, .rsCorr il]

theorem forall_stageCommands {P : Instr → Prop} {il : Nat} :
    (∀ i ∈ stageCommands il, P i) ↔ P (.rsSyn il) ∧ P .rsBm ∧ P .rsChien ∧ P .rsForney ∧ P (.rsCorr il) := by
  simp [stageCommands]

theorem after_eq {i : Instr} {s t : State} (h : exec i s = .next t) : after i s = t := by rw [after, h]

/-- Every stage command of an interleave of a legal frame runs its body (R233). -/
theorem after_stageCommand {s : State} {il : Nat} (hc : FrameOk s.cfg) (hil : il < s.cfg.I) :
    ∀ i ∈ stageCommands il, after i s = (bodyOf i s).complete .ok :=
  have hrs := rsOk_of_frameOk hc
  forall_stageCommands.mpr ⟨after_eq (exec_of_interleave (by simp) hc hil), after_eq (exec_of_rsOk (by simp) hrs),
    after_eq (exec_of_rsOk (by simp) hrs), after_eq (exec_of_rsOk (by simp) hrs),
    after_eq (exec_of_interleave (by simp) hc hil)⟩

/-- A stage reads nothing else: what it leaves of the four parts is the same from states that agree on them. -/
theorem SameStage.bodyOf {s t : State} (h : SameStage s t) (il : Nat) :
    ∀ i ∈ stageCommands il, SameStage (bodyOf i s) (bodyOf i t) := by
  refine forall_stageCommands.mpr ⟨?_, ?_, ?_, ?_, h.rsCorrBody il⟩
  all_goals
    rw [h.state_eq]
    exact ⟨rfl, rfl, rfl, rfl⟩

theorem SameStage.after {s t : State} (h : SameStage s t) {il : Nat} (hc : FrameOk t.cfg) (hil : il < t.cfg.I) :
    ∀ i ∈ stageCommands il, SameStage (after i s) (Machine.bodyOf i t) := by
  rw [← h.cfg] at hc hil
  intro i hi
  rw [after_stageCommand hc hil i hi]
  exact (h.bodyOf il i hi).complete _

/-! ### One interleave (R250, R251) -/

/-- The bodies RS_DECODE runs for one interleave, without its report (R250). -/
def codewordStages (il : Nat) (s : State) : State :=
  if (rsSynBody il s).rs.stage.synNz then correctCodeword il (rsSynBody il s) else rsSynBody il s

/-- The stage commands of one interleave are the bodies RS_DECODE runs (R251). -/
theorem SameStage.stagesByHost {s t : State} (h : SameStage s t) {il : Nat} (hc : FrameOk t.cfg) (hil : il < t.cfg.I) :
    SameStage (stagesByHost s il) (codewordStages il t) := by
  have run {s u : State} (h : SameStage s u) (hu : t.RsOnly u) :
      SameStage (Claims.after (.rsSyn il) s) (rsSynBody il u) ∧ SameStage (Claims.after .rsBm s) (rsBmBody u) ∧
        SameStage (Claims.after .rsChien s) (rsChienBody u) ∧ SameStage (Claims.after .rsForney s) (rsForneyBody u) ∧
        SameStage (Claims.after (.rsCorr il) s) (Machine.rsCorrBody il u) :=
    forall_stageCommands.mp (h.after (by rw [hu.1.cfg]; exact hc) (by rw [hu.1.cfg]; exact hil))
  have usyn := rsSynBody_rsOnly il t
  have ubm := usyn.trans (rsBmBody_rsOnly _)
  have uchien := ubm.unless rsChienBody_rsOnly
  have uforney := uchien.unless rsForneyBody_rsOnly
  obtain ⟨hsyn, -⟩ := run h ⟨.rfl t, rfl⟩
  obtain ⟨-, hbm, -⟩ := run hsyn usyn
  obtain ⟨-, -, hchien, -⟩ := run hbm ubm
  obtain ⟨-, -, -, hforney, -⟩ := run (hbm.skipIf hchien) uchien
  obtain ⟨-, -, -, -, hcorr⟩ := run ((hbm.skipIf hchien).skipIf hforney) uforney
  simp only [Claims.stagesByHost, codewordStages, correctCodeword, hsyn.stage]
  split
  · exact hcorr
  · exact hsyn

/-! ### What the stages leave alone (R251) -/

/-- `t` has the report registers of `s`: of the RS registers only the scratch and `RS_STAGE` differ. -/
def OutputsKept (s t : State) : Prop := t.rs = { s.rs with scratch := t.rs.scratch, stage := t.rs.stage }

namespace OutputsKept

theorem refl (s : State) : OutputsKept s s := rfl

theorem trans {s t u : State} (h : OutputsKept s t) (h' : OutputsKept t u) : OutputsKept s u := by
  unfold OutputsKept at *
  rw [h] at h'
  exact h'

theorem skipIf {s t t' : State} (h : OutputsKept s t) (h' : OutputsKept t t') :
    OutputsKept s (if t.rs.stage.uncorr then t else t') := by
  split
  · exact h
  · exact h.trans h'

theorem setStage_setScratch (s : State) (x : Scratch) (y : RsStage) : OutputsKept s ((s.setScratch x).setStage y) :=
  rfl

theorem rsSynBody (il : Nat) (s : State) : OutputsKept s (rsSynBody il s) := setStage_setScratch s _ _
theorem rsBmBody (s : State) : OutputsKept s (rsBmBody s) := setStage_setScratch s _ _
theorem rsChienBody (s : State) : OutputsKept s (rsChienBody s) := setStage_setScratch s _ _
theorem rsForneyBody (s : State) : OutputsKept s (rsForneyBody s) := setStage_setScratch s _ _
theorem rsCorrBody (il : Nat) (s : State) : OutputsKept s (rsCorrBody il s) := by rw [OutputsKept, rsCorrBody_rs]

theorem codewordStages (il : Nat) (s : State) : OutputsKept s (codewordStages il s) := by
  simp only [Proofs.codewordStages, correctCodeword]
  split
  · exact ((((rsSynBody il s).trans (rsBmBody _)).skipIf (rsChienBody _)).skipIf (rsForneyBody _)).trans
      (rsCorrBody il _)
  · exact rsSynBody il s

/-- A stage command, completed with OK or with an error, keeps the report registers. -/
theorem after (s : State) (il : Nat) : ∀ i ∈ stageCommands il, OutputsKept s (after i s) := by
  have hbody : ∀ i ∈ stageCommands il, OutputsKept s (bodyOf i s) :=
    forall_stageCommands.mpr ⟨rsSynBody il s, rsBmBody s, rsChienBody s, rsForneyBody s, rsCorrBody il s⟩
  intro i hi
  cases h : firstFailure (checksOf i s) with
  | none =>
    rw [after_eq (exec_passed h)]
    exact hbody i hi
  | some code =>
    rw [after_eq (exec_failed h)]
    exact refl s

theorem stagesByHost (s : State) (il : Nat) : OutputsKept s (stagesByHost s il) := by
  have run {i : Instr} (hi : i ∈ stageCommands il) (s : State) : OutputsKept s (Claims.after i s) := after s il i hi
  have hsyn := run (i := .rsSyn il) (by simp [stageCommands])
  have hbm := run (i := .rsBm) (by simp [stageCommands])
  have hchien := run (i := .rsChien) (by simp [stageCommands])
  have hforney := run (i := .rsForney) (by simp [stageCommands])
  have hcorr := run (i := .rsCorr il) (by simp [stageCommands])
  simp only [Claims.stagesByHost]
  split
  · exact ((((hsyn s).trans (hbm _)).skipIf (hchien _)).skipIf (hforney _)).trans (hcorr _)
  · exact hsyn s

end OutputsKept

/-! ### What the stages leave in `RS_STAGE` (R232, R250) -/

/-- A stage after RS_BM keeps `L` and `SYN_NZ`, and does not clear `UNCORR` (R232). -/
structure StageKept (st st' : RsStage) : Prop where
  l_eq : st'.l = st.l
  synNz_eq : st'.synNz = st.synNz
  uncorr_mono : st.uncorr = true → st'.uncorr = true

namespace StageKept

theorem refl (st : RsStage) : StageKept st st := ⟨rfl, rfl, id⟩

theorem trans {st st' st'' : RsStage} (h : StageKept st st') (h' : StageKept st' st'') : StageKept st st'' :=
  ⟨h'.l_eq.trans h.l_eq, h'.synNz_eq.trans h.synNz_eq, fun hu => h'.uncorr_mono (h.uncorr_mono hu)⟩

theorem rsChienBody (s : State) : StageKept s.rs.stage (rsChienBody s).rs.stage := by
  obtain ⟨loc, h⟩ := rsChienBody_eq s
  rw [h]
  exact ⟨rfl, rfl, fun hu => Bool.or_eq_true_iff.mpr (.inl hu)⟩

theorem rsForneyBody (s : State) : StageKept s.rs.stage (rsForneyBody s).rs.stage := by
  obtain ⟨omega, mag, h⟩ := rsForneyBody_eq s
  rw [h]
  exact ⟨rfl, rfl, fun hu => Bool.or_eq_true_iff.mpr (.inl hu)⟩

theorem skipIf {st : RsStage} {s s' : State} (h : StageKept st s.rs.stage) (h' : StageKept s.rs.stage s'.rs.stage) :
    StageKept st (if s.rs.stage.uncorr then s else s').rs.stage := by
  split
  · exact h
  · exact h.trans h'

theorem correctCodeword (il : Nat) (s : State) :
    StageKept (rsBmBody s).rs.stage (correctCodeword il s).rs.stage := by
  rw [Machine.correctCodeword, rsCorrBody_rs]
  exact ((refl _).skipIf (rsChienBody _)).skipIf (rsForneyBody _)

end StageKept

theorem synNz_rsBmBody (s : State) : (rsBmBody s).rs.stage.synNz = s.rs.stage.synNz := by
  obtain ⟨sigma, h⟩ := rsBmBody_eq s
  rw [h]
  rfl

/-- An `L` above `T` makes the codeword uncorrectable (R242). -/
theorem stage_l_le_of_correctable {s : State} (hc : RsOk s.cfg) (hu : (rsBmBody s).rs.stage.uncorr = false) :
    (rsBmBody s).rs.stage.l.toNat ≤ s.cfg.T := by
  rw [stage_l_rsBmBody hc]
  obtain ⟨sigma, h⟩ := rsBmBody_eq s
  rw [h] at hu
  have hflag : (s.rs.stage.uncorr || decide (s.cfg.T < (stateLoop s).len)) = false := hu
  rw [Bool.or_eq_false_iff, decide_eq_false_iff_not, Nat.not_lt] at hflag
  exact hflag.2

/-- What the stages leave of a codeword in `RS_STAGE`: a clean one is not uncorrectable, and a correctable one has
`L <= T` (R250). -/
structure FinalStage (c : CfgRegs) (st : RsStage) : Prop where
  uncorr_of_clean : st.synNz = false → st.uncorr = false
  l_le : st.synNz = true → st.uncorr = false → st.l.toNat ≤ c.T

section
variable {s : State} {il : Nat}

theorem codewordStages_of_clean (h : (rsSynBody il s).rs.stage.synNz = false) :
    codewordStages il s = rsSynBody il s := by
  rw [codewordStages, h]
  rfl

theorem codewordStages_of_error (h : (rsSynBody il s).rs.stage.synNz = true) :
    codewordStages il s = correctCodeword il (rsSynBody il s) := by
  rw [codewordStages, h]
  rfl

theorem synNz_codewordStages : (codewordStages il s).rs.stage.synNz = (rsSynBody il s).rs.stage.synNz := by
  cases h : (rsSynBody il s).rs.stage.synNz with
  | false => rw [codewordStages_of_clean h, h]
  | true => rw [codewordStages_of_error h, (StageKept.correctCodeword il _).synNz_eq, synNz_rsBmBody, h]

theorem finalStage_codewordStages (hc : RsOk s.cfg) : FinalStage s.cfg (codewordStages il s).rs.stage where
  uncorr_of_clean := fun h => by
    rw [synNz_codewordStages] at h
    rw [codewordStages_of_clean h]
    rfl
  l_le := fun h hu => by
    rw [synNz_codewordStages] at h
    rw [codewordStages_of_error h] at hu ⊢
    have kept := StageKept.correctCodeword il (rsSynBody il s)
    have hbm : (rsBmBody (rsSynBody il s)).rs.stage.uncorr = false :=
      Bool.eq_false_iff.mpr fun h => Bool.eq_false_iff.mp hu (kept.uncorr_mono h)
    rw [kept.l_eq, ← rsSynBody_cfg il s]
    exact stage_l_le_of_correctable (by rw [rsSynBody_cfg]; exact hc) hbm

theorem codewordStages_cfg : (codewordStages il s).cfg = s.cfg := by
  rw [codewordStages]
  split
  · rw [(correctCodeword_frame il _).cfg, rsSynBody_cfg]
  · exact rsSynBody_cfg il s

/-- What the stages of one interleave do to the RAM: nothing to a clean or an uncorrectable codeword (R248, R250). -/
theorem codewordStages_mem_of_uncorrected
    (h : (codewordStages il s).rs.stage.synNz = false ∨ (codewordStages il s).rs.stage.uncorr = true) :
    (codewordStages il s).mem = s.mem := by
  cases hs : (rsSynBody il s).rs.stage.synNz with
  | false => rw [codewordStages_of_clean hs, rsSynBody_mem]
  | true =>
    rw [synNz_codewordStages, hs, codewordStages_of_error hs] at h
    obtain ⟨u, hu, heq⟩ := correctCodeword_eq il (rsSynBody il s)
    rw [heq, rsCorrBody_rs] at h
    rw [codewordStages_of_error hs, heq, rsCorrBody_of_uncorr (h.resolve_left (by decide)), hu.2, rsSynBody_mem]

end

end Sys2Proof.Proofs
end

section
/-! PROOF. The report of RS_DECODE (R250 to R252), interleave by interleave along the decode's chain of states. -/

namespace Sys2Proof.Proofs
open Sys2Proof.Machine Sys2Proof.Claims

/-! ### Symbols of the other interleaves (R230, R248) -/

theorem symbol_congr {s t : State} (hcfg : s.cfg = t.cfg) (hmem : s.mem = t.mem) (il p : Nat) :
    symbol s il p = symbol t il p := by
  simp only [symbol, hcfg, State.fb_congr hmem]

/-- Two interleaves share no byte of the frame (R230). -/
theorem interleave_of_address {n q p il il' : Nat} (hil : il < n) (hil' : il' < n) (h : q * n + il = p * n + il') :
    il = il' := by
  have hmod := congrArg (· % n) h
  simpa only [Nat.mul_add_mod_self_right, Nat.mod_eq_of_lt hil, Nat.mod_eq_of_lt hil'] using hmod

theorem symbol_rsCorrBody_of_ne {s : State} {il il' : Nat} (hil : il < s.cfg.I) (hil' : il' < s.cfg.I) (hne : il ≠ il')
    (p : Nat) : symbol (rsCorrBody il s) il' p = symbol s il' p := by
  cases hu : s.rs.stage.uncorr with
  | true => rw [rsCorrBody_of_uncorr hu]
  | false =>
    have elsewhere : (List.range s.locCount).filter
        (fun k => decide (corrAddr s il k = some (fbBase + (s.cfg.S + p * s.cfg.I + il')))) = [] := by
      refine List.filter_eq_nil_iff.mpr fun k _ hk => hne ?_
      obtain ⟨-, haddr⟩ := (corrAddr_eq_some_iff _ _ _ _).mp (of_decide_eq_true hk)
      refine interleave_of_address hil hil' (q := 254 - (s.loc k).toNat - s.cfg.VF) (p := p) ?_
      rw [fbBase] at haddr
      omega
    rw [symbol, rsCorrBody_cfg, State.fb, byteAt_rsCorrBody il s _ hu, elsewhere, xorOver_nil, byte_xor_zero]
    rfl

theorem symbol_codewordStages_of_ne {s : State} {il il' : Nat} (hil : il < s.cfg.I) (hil' : il' < s.cfg.I)
    (hne : il ≠ il') (p : Nat) : symbol (codewordStages il s) il' p = symbol s il' p := by
  have hsyn : symbol (rsSynBody il s) il' p = symbol s il' p :=
    symbol_congr (rsSynBody_cfg il s) (rsSynBody_mem il s) _ _
  rw [codewordStages]
  split
  · obtain ⟨u, hu, heq⟩ := correctCodeword_eq il (rsSynBody il s)
    have hcfg : u.cfg = s.cfg := hu.1.cfg.trans (rsSynBody_cfg il s)
    rw [heq, symbol_rsCorrBody_of_ne (by rwa [hcfg]) (by rwa [hcfg]) hne, symbol_congr hu.1.cfg hu.2, hsyn]
  · exact hsyn

/-! ### The host's chain of stages (R251) -/

/-- The state after the host has issued the stage commands of the first `n` interleaves (R251). -/
def hostChain (s : State) (n : Nat) : State := (List.range n).foldl stagesByHost s

theorem hostChain_succ (s : State) (n : Nat) : hostChain s (n + 1) = stagesByHost (hostChain s n) n := by
  rw [hostChain, List.range_succ, List.foldl_append]
  rfl

theorem outputsKept_hostChain (s : State) (n : Nat) : OutputsKept s (hostChain s n) := by
  induction n with
  | zero => exact .refl s
  | succ n ih =>
    rw [hostChain_succ]
    exact ih.trans (.stagesByHost _ n)

section
variable {s : State} (hc : FrameOk s.cfg)
include hc

theorem cfg_hostChain {n : Nat} (hn : n ≤ s.cfg.I) : (hostChain s n).cfg = s.cfg := by
  induction n with
  | zero => rfl
  | succ n ih =>
    have hcfg := ih (by omega)
    rw [hostChain_succ, ((SameStage.refl _).stagesByHost (by rwa [hcfg]) (by rw [hcfg]; omega)).cfg, codewordStages_cfg,
      hcfg]

/-- Along the chain each interleave is run as RS_DECODE's stages run it. -/
theorem sameStage_hostChain_succ {n : Nat} (hn : n < s.cfg.I) :
    SameStage (hostChain s (n + 1)) (codewordStages n (hostChain s n)) := by
  have hcfg := cfg_hostChain hc (Nat.le_of_lt hn)
  rw [hostChain_succ]
  exact (SameStage.refl _).stagesByHost (by rwa [hcfg]) (by rwa [hcfg])

/-- Interleave `k` keeps its symbols until its own stages run. -/
theorem symbol_hostChain_before {k n : Nat} (hk : k < s.cfg.I) (hn : n ≤ k) (p : Nat) :
    symbol (hostChain s n) k p = symbol s k p := by
  induction n with
  | zero => rfl
  | succ n ih =>
    have hcfg := cfg_hostChain hc (n := n) (by omega)
    have h := sameStage_hostChain_succ hc (n := n) (by omega)
    rw [symbol_congr h.cfg h.mem, symbol_codewordStages_of_ne (by rw [hcfg]; omega) (by rwa [hcfg]) (by omega),
      ih (by omega)]

/-- Interleave `k` keeps the symbols its own stages leave. -/
theorem symbol_hostChain_after {k n : Nat} (hkn : k + 1 ≤ n) (hn : n ≤ s.cfg.I) (p : Nat) :
    symbol (hostChain s n) k p = symbol (hostChain s (k + 1)) k p := by
  induction n, hkn using Nat.le_induction with
  | base => rfl
  | succ n hkn ih =>
    have hcfg := cfg_hostChain hc (n := n) (by omega)
    have h := sameStage_hostChain_succ hc (n := n) (by omega)
    rw [symbol_congr h.cfg h.mem, symbol_codewordStages_of_ne (by rw [hcfg]; omega) (by rw [hcfg]; omega) (by omega),
      ih (by omega)]

end

/-! ### The report of one interleave (R250) -/

/-- `RS_STAGE` after the stages of interleave `k` (R251). -/
def stageAt (s : State) (k : Nat) : RsStage := (hostChain s (k + 1)).rs.stage

theorem finalStage_stageAt {s : State} (hc : FrameOk s.cfg) {k : Nat} (hk : k < s.cfg.I) :
    FinalStage s.cfg (stageAt s k) := by
  have hcfg := cfg_hostChain hc (Nat.le_of_lt hk)
  rw [stageAt, (sameStage_hostChain_succ hc hk).stage, ← hcfg]
  exact finalStage_codewordStages (by rw [hcfg]; exact rsOk_of_frameOk hc)

/-- `RS_ILk` for an interleave whose stages leave `st` (R250). -/
def reportOf (st : RsStage) : RsIl :=
  if st.synNz then if st.uncorr then ⟨0, true, false⟩ else ⟨st.l.setWidth 5, false, false⟩ else ⟨0, false, true⟩

section
variable {st : RsStage}

theorem reportOf_clean (h : st.synNz = false) : reportOf st = ⟨0, false, true⟩ := by
  rw [reportOf, h]
  rfl

theorem reportOf_uncorr (h : st.synNz = true) (hu : st.uncorr = true) : reportOf st = ⟨0, true, false⟩ := by
  rw [reportOf, h, hu]
  rfl

theorem reportOf_corrected (h : st.synNz = true) (hu : st.uncorr = false) :
    reportOf st = ⟨st.l.setWidth 5, false, false⟩ := by
  rw [reportOf, h, hu]
  rfl

end

/-- A report tells what the stages found: clean, uncorrectable, or corrected with `L` errors (R250). -/
structure Tells (c : CfgRegs) (st : RsStage) (r : RsIl) : Prop where
  cnt_le : r.cnt.toNat ≤ c.T
  cnt_zero : r.uncorr = true ∨ r.clean = true → r.cnt = 0
  exclusive : ¬ (r.uncorr = true ∧ r.clean = true)
  clean_iff : r.clean = true ↔ st.synNz = false
  uncorr_iff : r.uncorr = true ↔ st.uncorr = true
  cnt_eq : st.synNz = true → st.uncorr = false → r.cnt.toNat = st.l.toNat

theorem FinalStage.cnt_eq {c : CfgRegs} (hT : c.T ≤ 16) {st : RsStage} (h : FinalStage c st) (hn : st.synNz = true)
    (hu : st.uncorr = false) : (st.l.setWidth 5).toNat = st.l.toNat := by
  have := h.l_le hn hu
  rw [BitVec.toNat_setWidth]
  exact Nat.mod_eq_of_lt (by omega)

theorem tells_reportOf {c : CfgRegs} (hT : c.T ≤ 16) {st : RsStage} (h : FinalStage c st) :
    Tells c st (reportOf st) := by
  cases hn : st.synNz with
  | false =>
    rw [reportOf_clean hn]
    constructor <;> simp [hn, h.uncorr_of_clean hn]
  | true =>
    cases hu : st.uncorr with
    | true =>
      rw [reportOf_uncorr hn hu]
      constructor <;> simp [hn, hu]
    | false =>
      rw [reportOf_corrected hn hu]
      constructor <;> simp [hn, hu, h.cnt_eq hT hn hu, h.l_le hn hu]

/-! ### The decode's chain (R250) -/

/-- One interleave of RS_DECODE is its stages and the report of what they leave (R250). -/
theorem decodeIl_eq {a : DecodeAcc} (hc : RsOk a.st.cfg) (il : Nat) :
    let t := codewordStages il a.st
    let r := reportOf t.rs.stage
    decodeIl a il = ⟨t.setIl il r, a.corr + r.cnt.toNat, a.unc + r.uncorr.toNat, a.allClean && r.clean⟩ := by
  have hfinal : FinalStage a.st.cfg (codewordStages il a.st).rs.stage := finalStage_codewordStages hc
  have hsyn := synNz_codewordStages (s := a.st) (il := il)
  cases hn : (rsSynBody il a.st).rs.stage.synNz with
  | false =>
    rw [codewordStages_of_clean hn]
    simp only [reportOf_clean hn, decodeIl, hn]
    simp
  | true =>
    rw [hn] at hsyn
    cases hu : (codewordStages il a.st).rs.stage.uncorr with
    | true =>
      simp only [reportOf_uncorr hsyn hu, decodeIl, hn, ← codewordStages_of_error hn, hu]
      simp
    | false =>
      simp only [reportOf_corrected hsyn hu, decodeIl, hn, ← codewordStages_of_error hn, hu,
        hfinal.cnt_eq (T_le_of_rsOk hc) hsyn hu]
      simp

/-- `RS_ILk` after RS_DECODE: the report of an interleave of the frame, else 0 (R250). -/
def reportAt (s : State) (k : Nat) : RsIl := if k < s.cfg.I then reportOf (stageAt s k) else ⟨0, false, false⟩

/-- The decode's accumulator after `n` interleaves. -/
def decodeChain (s : State) (n : Nat) : DecodeAcc := (List.range n).foldl decodeIl ⟨s, 0, 0, true⟩

theorem decodeChain_succ (s : State) (n : Nat) : decodeChain s (n + 1) = decodeIl (decodeChain s n) n := by
  rw [decodeChain, List.range_succ, List.foldl_append]
  rfl

/-- After `n` interleaves the decode agrees with the host's chain, and has reported each of them. -/
structure Reported (s : State) (n : Nat) (a : DecodeAcc) : Prop where
  same : SameStage (hostChain s n) a.st
  ils : ∀ k : Fin 8, k.val < n → a.st.rs.ils[k] = reportAt s k
  corr : a.corr = ((List.range n).map fun k => (reportAt s k).cnt.toNat).sum
  unc : a.unc = ((List.range n).map fun k => (reportAt s k).uncorr.toNat).sum
  allClean : a.allClean = (List.range n).all fun k => (reportAt s k).clean
  totCorr : a.st.rs.totCorr = s.rs.totCorr
  totUnc : a.st.rs.totUnc = s.rs.totUnc
  totFrames : a.st.rs.totFrames = s.rs.totFrames

/-- The next interleave's stages and its report extend what has been reported. -/
theorem Reported.next {s t : State} {n : Nat} {a : DecodeAcc} (h : Reported s n a)
    (hstages : SameStage (hostChain s (n + 1)) t) (kept : OutputsKept a.st t) :
    Reported s (n + 1) ⟨t.setIl n (reportAt s n), a.corr + (reportAt s n).cnt.toNat,
      a.unc + (reportAt s n).uncorr.toNat, a.allClean && (reportAt s n).clean⟩ where
  same := ⟨hstages.cfg, hstages.mem, hstages.scratch, hstages.stage⟩
  ils := fun k hk => by
    refine (Vector.getElem_setIfInBounds (xs := t.rs.ils) k.isLt).trans ?_
    by_cases hkn : n = k.val
    · rw [if_pos hkn, hkn]
    · rw [if_neg hkn, kept]
      exact h.ils k (by omega)
  corr := by simp [List.range_succ, h.corr]
  unc := by simp [List.range_succ, h.unc]
  allClean := by simp [List.range_succ, h.allClean]
  totCorr := (congrArg RsRegs.totCorr kept).trans h.totCorr
  totUnc := (congrArg RsRegs.totUnc kept).trans h.totUnc
  totFrames := (congrArg RsRegs.totFrames kept).trans h.totFrames

theorem reported_decodeChain {s : State} (hc : FrameOk s.cfg) {n : Nat} (hn : n ≤ s.cfg.I) :
    Reported s n (decodeChain s n) := by
  induction n with
  | zero => exact ⟨.refl s, fun k hk => absurd hk (Nat.not_lt_zero _), rfl, rfl, rfl, rfl, rfl, rfl⟩
  | succ n ih =>
    have h := ih (by omega)
    have hcfg : (decodeChain s n).st.cfg = s.cfg := h.same.cfg.symm.trans (cfg_hostChain hc (by omega))
    have hstages : SameStage (hostChain s (n + 1)) (codewordStages n (decodeChain s n).st) := by
      rw [hostChain_succ]
      exact h.same.stagesByHost (by rwa [hcfg]) (by rw [hcfg]; omega)
    have hreport : reportOf (codewordStages n (decodeChain s n).st).rs.stage = reportAt s n := by
      rw [reportAt, if_pos (by omega), stageAt, hstages.stage]
    rw [decodeChain_succ, decodeIl_eq (by rw [hcfg]; exact rsOk_of_frameOk hc), hreport]
    exact h.next hstages (.codewordStages n _)

/-! ### The report of the frame (R250) -/

theorem length_filter_eq_sum {α : Type} (p : α → Bool) (l : List α) :
    (l.filter p).length = (l.map fun k => (p k).toNat).sum := by
  induction l with
  | nil => rfl
  | cons k l ih => cases hk : p k <;> simp [hk, ih, Nat.add_comm]

/-- Terms that vanish from `m` on can be left out. -/
theorem sum_range_of_vanishing {m n : Nat} (hmn : m ≤ n) {f : Nat → Nat} (h : ∀ k, m ≤ k → f k = 0) :
    ((List.range n).map f).sum = ((List.range m).map f).sum := by
  induction n, hmn using Nat.le_induction with
  | base => rfl
  | succ n hmn ih => rw [List.range_succ, List.map_append, List.sum_append, ih, List.map_singleton, h n hmn]; rfl

/-- A sum over the eight registers of what vanishes outside the frame is the sum over the frame's interleaves. -/
theorem sum_finRange_eq {m : Nat} (hm : m ≤ 8) {f : Nat → Nat} (h : ∀ k, m ≤ k → f k = 0) :
    ((List.finRange 8).map fun k : Fin 8 => f k.val).sum = ((List.range m).map f).sum :=
  sum_range_of_vanishing hm h

theorem reportAt_outside {s : State} {k : Nat} (hk : s.cfg.I ≤ k) : reportAt s k = ⟨0, false, false⟩ :=
  if_neg (Nat.not_lt.mpr hk)

section
variable {s : State} (hc : FrameOk s.cfg)
include hc

theorem tells_reportAt {k : Nat} (hk : k < s.cfg.I) : Tells s.cfg (stageAt s k) (reportAt s k) := by
  rw [reportAt, if_pos hk]
  exact tells_reportOf (T_le_of_rsOk (rsOk_of_frameOk hc)) (finalStage_stageAt hc hk)

/-- RS_DECODE ends where the host's stage commands end (R251). -/
theorem sameStage_rsDecodeBody : SameStage (hostChain s s.cfg.I) (rsDecodeBody s) := by
  have h := (reported_decodeChain hc (Nat.le_refl _)).same
  exact ⟨h.cfg, h.mem, h.scratch, h.stage⟩

theorem ils_rsDecodeBody (k : Fin 8) : (rsDecodeBody s).rs.ils[k] = reportAt s k := by
  have hentry : (rsDecodeBody s).rs.ils[k] =
      if k.val < s.cfg.I then (decodeChain s s.cfg.I).st.rs.ils[k] else ⟨0, false, false⟩ := Vector.getElem_ofFn k.isLt
  rw [hentry]
  by_cases hk : k.val < s.cfg.I
  · rw [if_pos hk, (reported_decodeChain hc (Nat.le_refl _)).ils k hk]
  · rw [if_neg hk, reportAt_outside (Nat.not_lt.mp hk)]

/-- The accumulators fit their fields (R250). -/
theorem corr_lt : (decodeChain s s.cfg.I).corr < 2 ^ 8 := by
  have hT := T_le_of_rsOk (rsOk_of_frameOk hc)
  have hI := I_le_of_rsOk (rsOk_of_frameOk hc)
  rw [(reported_decodeChain hc (Nat.le_refl _)).corr]
  refine Nat.lt_of_le_of_lt (List.sum_le_card_nsmul _ 16 fun x hx => ?_) ?_
  · obtain ⟨k, hk, rfl⟩ := List.mem_map.mp hx
    exact ((tells_reportAt hc (List.mem_range.mp hk)).cnt_le).trans hT
  · rw [List.length_map, List.length_range, smul_eq_mul]
    omega

theorem unc_lt : (decodeChain s s.cfg.I).unc < 2 ^ 4 := by
  have hI := I_le_of_rsOk (rsOk_of_frameOk hc)
  rw [(reported_decodeChain hc (Nat.le_refl _)).unc]
  refine Nat.lt_of_le_of_lt (List.sum_le_card_nsmul _ 1 fun x hx => ?_) ?_
  · obtain ⟨k, -, rfl⟩ := List.mem_map.mp hx
    exact Bool.toNat_le _
  · rw [List.length_map, List.length_range, smul_eq_mul]
    omega

/-- `CORR` is the sum of the frame's counts (R250). -/
theorem corr_rsDecodeBody : (rsDecodeBody s).rs.result.corr.toNat =
    ((List.range s.cfg.I).map fun k => (reportAt s k).cnt.toNat).sum := by
  rw [← (reported_decodeChain hc (Nat.le_refl _)).corr]
  exact Nat.mod_eq_of_lt (corr_lt hc)

/-- `UNC` counts the frame's uncorrectable interleaves (R250). -/
theorem unc_rsDecodeBody : (rsDecodeBody s).rs.result.unc.toNat =
    ((List.range s.cfg.I).map fun k => (reportAt s k).uncorr.toNat).sum := by
  rw [← (reported_decodeChain hc (Nat.le_refl _)).unc]
  exact Nat.mod_eq_of_lt (unc_lt hc)

/-- `ALLCLEAN` says that every interleave was clean (R250). -/
theorem allClean_rsDecodeBody : (rsDecodeBody s).rs.result.allClean = true ↔
    ∀ k : Fin 8, k.val < s.cfg.I → (rsDecodeBody s).rs.ils[k].clean = true := by
  have hI := I_le_of_rsOk (rsOk_of_frameOk hc)
  have hfield : (rsDecodeBody s).rs.result.allClean = (decodeChain s s.cfg.I).allClean := rfl
  simp only [ils_rsDecodeBody hc]
  rw [hfield, (reported_decodeChain hc (Nat.le_refl _)).allClean, List.all_eq_true]
  exact ⟨fun h k hk => h k (List.mem_range.mpr hk),
    fun h k hk => h ⟨k, Nat.lt_of_lt_of_le (List.mem_range.mp hk) hI⟩ (List.mem_range.mp hk)⟩

/-- The totals advance by the report (R250). -/
theorem totals_rsDecodeBody :
    (rsDecodeBody s).rs.totCorr = s.rs.totCorr + (rsDecodeBody s).rs.result.corr.setWidth 32 ∧
      (rsDecodeBody s).rs.totUnc = s.rs.totUnc + (rsDecodeBody s).rs.result.unc.setWidth 32 ∧
      (rsDecodeBody s).rs.totFrames = s.rs.totFrames + 1 := by
  have h := reported_decodeChain hc (Nat.le_refl _)
  have hcorr := BitVec.setWidth_ofNat_of_le_of_lt (w := 8) (v := 32) (by decide) (corr_lt hc)
  have hunc := BitVec.setWidth_ofNat_of_le_of_lt (w := 4) (v := 32) (by decide) (unc_lt hc)
  rw [← h.totCorr, ← h.totUnc, ← h.totFrames]
  exact ⟨congrArg (HAdd.hAdd _) hcorr.symm, congrArg (HAdd.hAdd _) hunc.symm, rfl⟩

end

/-- Settles O26: along both chains the stages run on states that agree on all the stages read. -/
theorem rsDecodeIsStageComposition : Obligations.RsDecodeIsStageComposition := by
  intro s hc
  have h := sameStage_rsDecodeBody hc
  have kept : (hostChain s s.cfg.I).rs = _ := outputsKept_hostChain s s.cfg.I
  refine ⟨(rsDecodeBody s).complete .ok, exec_rsDecode hc, h.mem.symm, h.scratch.symm, h.stage.symm, ?_⟩
  change (hostChain s s.cfg.I).rs.result = _ ∧ (hostChain s s.cfg.I).rs.ils = _ ∧ (hostChain s s.cfg.I).rs.totCorr = _ ∧
    (hostChain s s.cfg.I).rs.totUnc = _ ∧ (hostChain s s.cfg.I).rs.totFrames = _
  rw [kept]
  exact ⟨rfl, rfl, rfl, rfl, rfl⟩

/-- Settles O27: each interleave's report is read off `RS_STAGE` after its stages, and the accumulators are the sums. -/
theorem rsDecodeReportAddsUp : Obligations.RsDecodeReportAddsUp := by
  intro s hc
  refine ⟨(rsDecodeBody s).complete .ok, exec_rsDecode hc, ?frame, fun a ha => byteAt_rsDecodeBody s ha,
    fun k hk => (ils_rsDecodeBody hc k).trans (reportAt_outside hk), fun k hk => ?report, ?corr, ?unc,
    allClean_rsDecodeBody hc, totals_rsDecodeBody hc⟩
  case frame => rw [complete_ok, rsDecodeBody_frame s]
  case report =>
    have h := tells_reportAt hc hk
    rw [← ils_rsDecodeBody hc k] at h
    exact ⟨h.cnt_le, h.cnt_zero, h.exclusive, h.clean_iff, h.uncorr_iff, h.cnt_eq⟩
  case corr =>
    simp only [State.complete_rs, ils_rsDecodeBody hc]
    rw [corr_rsDecodeBody hc]
    exact (sum_finRange_eq (I_le_of_rsOk (rsOk_of_frameOk hc)) fun k hk => by rw [reportAt_outside hk]; rfl).symm
  case unc =>
    simp only [State.complete_rs, length_filter_eq_sum, ils_rsDecodeBody hc]
    rw [unc_rsDecodeBody hc]
    exact (sum_finRange_eq (I_le_of_rsOk (rsOk_of_frameOk hc)) fun k hk => by rw [reportAt_outside hk]; rfl).symm

/-! ### Clean and uncorrectable codewords (R248, R252) -/

theorem eq_of_exec_rsDecode {s t : State} (hc : FrameOk s.cfg) (h : exec .rsDecode s = .next t) :
    t = (rsDecodeBody s).complete .ok := by
  rw [exec_rsDecode hc] at h
  exact (Host.Outcome.next.inj h).symm

/-- RS_DECODE leaves in a codeword what that codeword's own stages leave there. -/
theorem symbol_rsDecodeBody {s : State} (hc : FrameOk s.cfg) {k : Nat} (hk : k < s.cfg.I) (p : Nat) :
    symbol (rsDecodeBody s) k p = symbol (codewordStages k (hostChain s k)) k p := by
  have hend := sameStage_rsDecodeBody hc
  have hown := sameStage_hostChain_succ hc hk
  rw [← symbol_congr hend.cfg hend.mem, symbol_hostChain_after hc hk (Nat.le_refl _), symbol_congr hown.cfg hown.mem]

/-- The stages of a clean or an uncorrectable interleave leave the RAM as it is (R248, R250). -/
theorem codewordStages_mem_of_stageAt {s : State} (hc : FrameOk s.cfg) {k : Nat} (hk : k < s.cfg.I)
    (h : (stageAt s k).synNz = false ∨ (stageAt s k).uncorr = true) :
    (codewordStages k (hostChain s k)).mem = (hostChain s k).mem := by
  rw [stageAt, (sameStage_hostChain_succ hc hk).stage] at h
  exact codewordStages_mem_of_uncorrected h

/-- Settles O28: such an interleave's own stages store nothing, and the others' store elsewhere. -/
theorem rsDecodeLeavesUncorrectableCodewords : Obligations.RsDecodeLeavesUncorrectableCodewords := by
  intro s t hc ht k hk hreport p _
  obtain rfl := eq_of_exec_rsDecode hc ht
  have h := tells_reportAt hc hk
  rw [← ils_rsDecodeBody hc k] at h
  have huncorrected : (stageAt s k).synNz = false ∨ (stageAt s k).uncorr = true :=
    hreport.symm.imp h.clean_iff.mp h.uncorr_iff.mp
  have hmem := codewordStages_mem_of_stageAt hc hk huncorrected
  have hdecode : symbol ((rsDecodeBody s).complete .ok) k p = symbol (rsDecodeBody s) k p := rfl
  rw [hdecode, symbol_rsDecodeBody hc hk, symbol_congr codewordStages_cfg hmem,
    symbol_hostChain_before hc hk (Nat.le_refl _)]

/-! ### Valid codewords (R231, R252) -/

theorem receivedAt_congr {s t : State} {il : Nat} (hcfg : s.cfg = t.cfg)
    (h : ∀ p < 255 - t.cfg.VF, symbol s il p = symbol t il p) (e : Nat) : receivedAt s il e = receivedAt t il e := by
  rw [receivedAt, receivedAt, hcfg, basis_congr hcfg]
  exact xorOver_range_congr fun p hp => by rw [h p hp]

/-- The zero test is the validity of the codeword (R231, R241). -/
theorem synNz_rsSynBody_eq_false_iff {s : State} (hc : RsOk s.cfg) (il : Nat) :
    (rsSynBody il s).rs.stage.synNz = false ↔ ValidCodeword s il := by
  have hT := T_le_of_rsOk hc
  rw [Bool.eq_false_iff, ne_eq, synNz_rsSynBody]
  push Not
  refine forall₂_congr fun i hi => ?_
  rw [syn_rsSynBody il s (by omega), if_pos hi]

/-- An interleave whose codeword is valid in the frame is clean (R252). -/
theorem synNz_stageAt_of_valid {s : State} (hc : FrameOk s.cfg) {k : Nat} (hk : k < s.cfg.I) (hv : ValidCodeword s k) :
    (stageAt s k).synNz = false := by
  have hcfg := cfg_hostChain hc (Nat.le_of_lt hk)
  rw [stageAt, (sameStage_hostChain_succ hc hk).stage, synNz_codewordStages,
    synNz_rsSynBody_eq_false_iff (by rw [hcfg]; exact rsOk_of_frameOk hc)]
  intro i hi
  rw [receivedAt_congr hcfg fun p _ => symbol_hostChain_before hc hk (Nat.le_refl _) p]
  rw [hcfg] at hi ⊢
  exact hv i hi

/-- A frame whose interleaves are all clean is not changed (R250). -/
theorem hostChain_mem_of_clean {s : State} (hc : FrameOk s.cfg) (h : ∀ k < s.cfg.I, (stageAt s k).synNz = false)
    {n : Nat} (hn : n ≤ s.cfg.I) : (hostChain s n).mem = s.mem := by
  induction n with
  | zero => rfl
  | succ n ih =>
    rw [(sameStage_hostChain_succ hc hn).mem, codewordStages_mem_of_stageAt hc hn (.inl (h n hn)), ih (Nat.le_of_lt hn)]

theorem sum_map_eq_zero {l : List Nat} {f : Nat → Nat} (h : ∀ k ∈ l, f k = 0) : (l.map f).sum = 0 :=
  List.sum_eq_zero fun x hx => by
    obtain ⟨k, hk, rfl⟩ := List.mem_map.mp hx
    exact h k hk

theorem cleanResult_of_zero {r : RsResult} (hcorr : r.corr.toNat = 0) (hunc : r.unc.toNat = 0)
    (hclean : r.allClean = true) : r = ⟨0, 0, true⟩ := by
  obtain ⟨corr, unc, allClean⟩ := r
  rw [RsResult.mk.injEq]
  exact ⟨BitVec.eq_of_toNat_eq hcorr, BitVec.eq_of_toNat_eq hunc, hclean⟩

/-- Settles O29: valid codewords have a zero syndrome, so every interleave is clean and every count is 0. -/
theorem validFrameDecodesClean : Obligations.ValidFrameDecodesClean := by
  intro s hc hv
  have clean (k : Nat) (hk : k < s.cfg.I) : (stageAt s k).synNz = false := synNz_stageAt_of_valid hc hk (hv k hk)
  have report (k : Nat) (hk : k < s.cfg.I) : reportAt s k = ⟨0, false, true⟩ := by
    rw [reportAt, if_pos hk, reportOf_clean (clean k hk)]
  have ils (k : Fin 8) (hk : k.val < s.cfg.I) : (rsDecodeBody s).rs.ils[k] = ⟨0, false, true⟩ := by
    rw [ils_rsDecodeBody hc, report k hk]
  have hend := sameStage_rsDecodeBody hc
  refine ⟨(rsDecodeBody s).complete .ok, exec_rsDecode hc, ?mem, ?synNz, ?result, ils⟩
  case mem => exact hend.mem.symm.trans (hostChain_mem_of_clean hc clean (Nat.le_refl _))
  case synNz =>
    have hI := one_le_I_of_rsOk (rsOk_of_frameOk hc)
    have last := clean (s.cfg.I - 1) (by omega)
    rw [stageAt, Nat.sub_add_cancel hI, hend.stage] at last
    exact last
  case result =>
    refine cleanResult_of_zero ?_ ?_ ((allClean_rsDecodeBody hc).mpr fun k hk => by rw [ils k hk])
    · rw [State.complete_rs, corr_rsDecodeBody hc]
      exact sum_map_eq_zero fun k hk => by rw [report k (List.mem_range.mp hk)]; rfl
    · rw [State.complete_rs, unc_rsDecodeBody hc]
      exact sum_map_eq_zero fun k hk => by rw [report k (List.mem_range.mp hk)]; rfl

end Sys2Proof.Proofs
end

section
/-! PROOF. One error in a codeword (R243, R252): its syndrome is a geometric sequence, whose shortest recurrence is the
locator `ONE ^ X_l z`; its one root is the error's location, and Forney's quotient there is the error. -/

namespace Sys2Proof.Proofs
open Sys2Proof.Machine Sys2Proof.Claims

/-! ### The syndrome of one error (R240) -/

/-- `X_l`, the locator of a location (R231). -/
def locatorOf (s : State) (l : Nat) : Byte := gexp s.basis (s.cfg.POA * l)

theorem gmul_left_comm (basis : Bool) (a c d : Byte) :
    gmul basis a (gmul basis c d) = gmul basis c (gmul basis a d) := by
  rw [← gmul_assoc, gmul_comm basis a c, gmul_assoc]

theorem gexp_ne_zero (basis : Bool) (e : Nat) : gexp basis e ≠ 0 := alog_ne_zero basis e

/-- A sum with one term that does not vanish. -/
theorem xorOver_eq_term {n p : Nat} (hp : p < n) {f : Nat → Byte} (h : ∀ i < n, i ≠ p → f i = 0) :
    xorOver (List.range n) f = f p := by
  induction n with
  | zero => exact absurd hp (Nat.not_lt_zero p)
  | succ n ih =>
    rw [xorOver_range_succ]
    by_cases hpn : p = n
    · rw [xorOver_eq_zero fun i hi => h i (Nat.lt_succ_of_lt (List.mem_range.mp hi))
        fun hip => absurd (List.mem_range.mp hi) (by omega), byte_zero_xor, hpn]
    · rw [ih (by omega) fun i hi => h i (by omega), h n (Nat.lt_succ_self n) (Ne.symm hpn), byte_xor_zero]

/-- An error adds its value times the power of its location to the received polynomial (R230). -/
theorem receivedAt_of_error {s s₀ : State} {il p : Nat} (hcfg : s₀.cfg = s.cfg) (hp : p < 255 - s.cfg.VF)
    (h : ∀ p' < 255 - s.cfg.VF, p' ≠ p → symbol s il p' = symbol s₀ il p') (e : Nat) :
    receivedAt s il e = receivedAt s₀ il e ^^^
      gmul s.basis (symbol s il p ^^^ symbol s₀ il p) (gexp s.basis (e * (254 - s.cfg.VF - p))) := by
  have error : receivedAt s il e ^^^ receivedAt s₀ il e =
      gmul s.basis (symbol s il p ^^^ symbol s₀ il p) (gexp s.basis (e * (254 - s.cfg.VF - p))) := by
    rw [receivedAt, receivedAt, hcfg, basis_congr hcfg, ← xorOver_xor]
    simp only [← gmul_xor_left]
    exact xorOver_eq_term hp fun p' hp' hne => by rw [h p' hp' hne, byte_xor_self, gmul_zero_left]
  rw [← error, BitVec.xor_comm, BitVec.xor_assoc, byte_xor_self, byte_xor_zero]

/-- `SYN` holds the syndrome of one error: the value `e` at the real location `l` (R240). -/
structure OneError (s : State) (l : Nat) (e : Byte) : Prop where
  rsOk : RsOk s.cfg
  real : l + s.cfg.VF ≤ 254
  value : e ≠ 0
  syn : ∀ i < 2 * s.cfg.T, s.syn i = gmul s.basis e (gexp s.basis (s.cfg.POA * (s.cfg.MO + i) * l))

namespace OneError
variable {s : State} {l : Nat} {e : Byte} (h : OneError s l e)
include h

theorem one_le_T : 1 ≤ s.cfg.T := one_le_T_of_rsOk h.rsOk

theorem T_le : s.cfg.T ≤ 16 := T_le_of_rsOk h.rsOk

theorem syn_first : s.syn 0 = gmul s.basis e (gexp s.basis (s.cfg.POA * l * s.cfg.MO)) := by
  have := h.one_le_T
  rw [h.syn 0 (by omega), Nat.add_zero, Nat.mul_right_comm]

theorem syn_first_ne_zero : s.syn 0 ≠ 0 := by
  rw [h.syn_first]
  exact gmul_ne_zero _ h.value (gexp_ne_zero _ _)

/-- The syndrome is a geometric sequence with ratio `X_l`. -/
theorem syn_succ {i : Nat} (hi : i + 1 < 2 * s.cfg.T) : s.syn (i + 1) = gmul s.basis (locatorOf s l) (s.syn i) := by
  rw [h.syn (i + 1) hi, h.syn i (by omega), gmul_comm s.basis (locatorOf s l), locatorOf, gmul_gexp_gexp]
  congr 2
  ring

/-- The recurrence of the locator `ONE ^ X_l z`. -/
theorem recurrence :
    Recurrence s.basis s.syn (2 * s.cfg.T) 1 fun i => if i = 0 then gone s.basis else locatorOf s l := by
  intro k hk hk'
  obtain ⟨k, rfl⟩ : ∃ j, k = j + 1 := ⟨k - 1, by omega⟩
  refine (xorOver_range_two _).trans ?_
  change gmul s.basis (gone s.basis) (s.syn (k + 1 - 0)) ^^^ gmul s.basis (locatorOf s l) (s.syn (k + 1 - 1)) = 0
  rw [gone_gmul, Nat.sub_zero, Nat.add_sub_cancel, h.syn_succ hk', byte_xor_self]

/-! ### The locator (R243) -/

/-- Length 0 would make the first component vanish. -/
theorem len_eq : (stateLoop s).len = 1 := by
  have hT := h.one_le_T
  have hinv := loopInv_stateLoop s
  have hle : (stateLoop s).len ≤ 1 := berlekampMassey_len_le s.basis s.syn _ (if_pos rfl) h.recurrence
  refine Nat.le_antisymm hle (Nat.one_le_iff_ne_zero.mpr fun hzero => h.syn_first_ne_zero ?_)
  have first := hinv.recurrence 0 (by omega) (by omega)
  rwa [hzero, xorOver_range_one, hinv.sig_first, gone_gmul] at first

theorem sig_one : (stateLoop s).sig 1 = locatorOf s l := by
  have hT := h.one_le_T
  have hinv := loopInv_stateLoop s
  have second := hinv.recurrence 1 (by rw [h.len_eq]) (by omega)
  rw [h.len_eq, xorOver_range_two, hinv.sig_first, gone_gmul, h.syn_succ (i := 0) (by omega), byte_xor_eq_zero_iff,
    gmul_comm, gmul_comm s.basis _ (s.syn _)] at second
  exact (gmul_left_cancel s.basis h.syn_first_ne_zero second).symm

end OneError

/-- `SIGMA` holds `ONE ^ X_l z` (R243). -/
structure OneErrorLocator (s : State) (l : Nat) : Prop where
  sigma_zero : s.sigma 0 = gone s.basis
  sigma_one : s.sigma 1 = locatorOf s l
  sigma_above : ∀ j, 1 < j → j < 34 → s.sigma j = 0

theorem OneError.locator {s : State} {l : Nat} {e : Byte} (h : OneError s l e) : OneErrorLocator (rsBmBody s) l where
  sigma_zero := by
    rw [sigma_rsBmBody_eq_sig (by decide), (loopInv_stateLoop s).sig_first]
    exact congrArg gone (basis_congr (rsBmBody_cfg s).symm)
  sigma_one := by
    rw [sigma_rsBmBody_eq_sig (by decide), h.sig_one, locatorOf, locatorOf, rsBmBody_cfg,
      basis_congr (rsBmBody_cfg s).symm]
  sigma_above := fun j hj hj' => by
    rw [sigma_rsBmBody_eq_sig hj', (loopInv_stateLoop s).sig_degree j (by rwa [h.len_eq])]

/-! ### The root (R244) -/

/-- Different locations have different locators, because `POA` and 255 are coprime (R231). -/
theorem location_of_locator {c : CfgRegs} (hc : RsOk c) {l m : Nat} (hl : l ≤ 254) (hm : m ≤ 254)
    (h : c.POA * l % 255 = c.POA * m % 255) : l = m := by
  have hmod : l % 255 = m % 255 := Nat.ModEq.cancel_left_of_coprime (coprime_of_rsOk hc) h
  rwa [Nat.mod_eq_of_lt (by omega), Nat.mod_eq_of_lt (by omega)] at hmod

theorem gexp_eq_gone_iff (basis : Bool) (e : Nat) : gexp basis e = gone basis ↔ e % 255 = 0 := by
  constructor
  · intro h
    have hlog := congrArg (glog basis) h
    rwa [gexp, gone, glog_alog_mod, glog_alog basis (by decide)] at hlog
  · exact fun h => alog_congr basis h

namespace OneErrorLocator
variable {s : State} {l : Nat} (h : OneErrorLocator s l) (hc : RsOk s.cfg)
include h hc

theorem locatorAt_eq (m : Nat) : locatorAt s m =
    gone s.basis ^^^ gexp s.basis (s.cfg.POA * l + inverseExp s.cfg m) := by
  have hT := T_le_of_rsOk hc
  have hT' := one_le_T_of_rsOk hc
  rw [locatorAt, xorOver_range_of_vanishing (m := 2) (by omega) fun i hi hi' => by
    rw [h.sigma_above i hi (by omega), gmul_zero_left]]
  rw [xorOver_range_two, h.sigma_zero, h.sigma_one, locatorOf, gmul_gexp, Nat.mul_zero, Nat.mul_one]
  exact congrArg (· ^^^ _) (gmul_gone s.basis _)

theorem locatorAt_eq_zero_iff {m : Nat} (hl : l ≤ 254) (hm : m ≤ 254) : locatorAt s m = 0 ↔ m = l := by
  rw [h.locatorAt_eq hc, byte_xor_eq_zero_iff, eq_comm, gexp_eq_gone_iff, inverseExp]
  refine ⟨fun hmod => (location_of_locator hc hl hm (by omega)).symm, fun heq => ?_⟩
  rw [heq]
  omega

/-- The search finds the error's location and no other (R244). -/
theorem roots_eq (hl : l + s.cfg.VF ≤ 254) : s.roots = [l] := by
  have hmem (m : Nat) : m ∈ s.roots ↔ m = l := by
    rw [mem_roots hc]
    constructor
    · rintro ⟨hm, hzero⟩
      exact (h.locatorAt_eq_zero_iff hc (by omega) (by omega)).mp hzero
    · rintro rfl
      exact ⟨hl, (h.locatorAt_eq_zero_iff hc (by omega) (by omega)).mpr rfl⟩
  have hnodup : s.roots.Nodup := ((locations_descending s.cfg).filter _).imp fun h => Nat.ne_of_gt h
  exact List.perm_singleton.mp <| (List.perm_ext_iff_of_nodup hnodup (List.nodup_singleton l)).mpr fun m => by
    rw [hmem, List.mem_singleton]

end OneErrorLocator

/-! ### The magnitude (R247) -/

theorem syn_rsBmBody (s : State) (i : Nat) : (rsBmBody s).syn i = s.syn i := by
  obtain ⟨sigma, h⟩ := rsBmBody_eq s
  rw [h]
  rfl

theorem syn_rsChienBody (s : State) (i : Nat) : (rsChienBody s).syn i = s.syn i := by
  obtain ⟨loc, h⟩ := rsChienBody_eq s
  rw [h]
  rfl

theorem sigma_rsChienBody (s : State) (i : Nat) : (rsChienBody s).sigma i = s.sigma i := by
  obtain ⟨loc, h⟩ := rsChienBody_eq s
  rw [h]
  rfl

theorem OneError.congr {s t : State} {l : Nat} {e : Byte} (h : OneError s l e) (hcfg : t.cfg = s.cfg)
    (hsyn : ∀ i, t.syn i = s.syn i) : OneError t l e where
  rsOk := by rw [hcfg]; exact h.rsOk
  real := by rw [hcfg]; exact h.real
  value := h.value
  syn := fun i hi => by
    rw [hcfg] at hi ⊢
    rw [hsyn i, basis_congr hcfg, h.syn i hi]

theorem OneErrorLocator.congr {s t : State} {l : Nat} (h : OneErrorLocator s l) (hcfg : t.cfg = s.cfg)
    (hsigma : ∀ i, t.sigma i = s.sigma i) : OneErrorLocator t l where
  sigma_zero := by rw [hsigma, h.sigma_zero, basis_congr hcfg]
  sigma_one := by rw [hsigma, h.sigma_one, locatorOf, locatorOf, hcfg, basis_congr hcfg]
  sigma_above := fun j hj hj' => by rw [hsigma, h.sigma_above j hj hj']

section
variable {s : State} {l : Nat} {e : Byte} (he : OneError s l e) (hs : OneErrorLocator s l)
include he hs

/-- The derivative of `ONE ^ X_l z` is `X_l` (R246). -/
theorem derivativeAt_of_oneError (m : Nat) : derivativeAt s m = locatorOf s l := by
  have hT := he.T_le
  have hT' := he.one_le_T
  rw [derivativeAt, xorOver_range_of_vanishing (m := 1) hT' fun i hi hi' => by
    rw [hs.sigma_above (2 * i + 1) (by omega) (by omega), gmul_zero_left]]
  rw [xorOver_range_one, Nat.mul_zero, Nat.zero_add, Nat.mul_zero, hs.sigma_one]
  exact gmul_gone s.basis _

/-- The evaluator is the first syndrome component: the recurrence cancels every later coefficient (R246). -/
theorem evaluator_of_oneError {i : Nat} (hi : i < 2 * s.cfg.T) : s.evaluator i = if i = 0 then s.syn 0 else 0 := by
  have hT := he.T_le
  cases i with
  | zero => rw [State.evaluator, xorOver_range_one, hs.sigma_zero, gone_gmul]; rfl
  | succ i =>
    rw [State.evaluator, xorOver_range_of_vanishing (m := 2) (by omega) fun j hj hj' => by
      rw [hs.sigma_above j hj (by omega), gmul_zero_left]]
    rw [xorOver_range_two, hs.sigma_zero, hs.sigma_one, gone_gmul, Nat.sub_zero, Nat.add_sub_cancel, he.syn_succ hi,
      byte_xor_self, if_neg (Nat.succ_ne_zero i)]

theorem evaluatorValue_of_oneError (m : Nat) : evaluatorValue (rsForneyBody s) m = s.syn 0 := by
  have hT := he.T_le
  have hT' := he.one_le_T
  have omega_eq (i : Nat) (hi : i < 2 * s.cfg.T) : (rsForneyBody s).omega i = if i = 0 then s.syn 0 else 0 := by
    rw [omega_rsForneyBody s (by omega), if_pos hi, evaluator_of_oneError he hs hi]
  rw [evaluatorValue, rsForneyBody_cfg, xorOver_range_of_vanishing (m := 1) (by omega) fun i hi hi' => by
    rw [omega_eq i hi', if_neg (by omega), gmul_zero_left]]
  rw [xorOver_range_one, omega_eq 0 (by omega), if_pos rfl, Nat.mul_zero]
  exact gmul_gone _ _

/-- Forney's quotient is the error: the powers of `X_l` cancel (R247). -/
theorem errorValue_of_oneError : errorValue (rsForneyBody s) l = e := by
  have hMO : s.cfg.MO < 256 := s.cfg.rsGen.mo.isLt
  have hX : locatorOf s l ≠ 0 := gexp_ne_zero _ _
  have hder : derivativeAt (rsForneyBody s) l = locatorOf s l := by
    rw [← derivativeAt_of_oneError he hs l, derivativeAt, derivativeAt, rsForneyBody_cfg,
      basis_congr (rsForneyBody_cfg s)]
    simp only [sigma_rsForneyBody]
  have powers : gexp s.basis (s.cfg.POA * l % 255 * ((256 - s.cfg.MO) % 255) + s.cfg.POA * l * s.cfg.MO) =
      locatorOf s l := by
    refine alog_congr s.basis ?_
    have hmod : s.cfg.POA * l % 255 * ((256 - s.cfg.MO) % 255) + s.cfg.POA * l * s.cfg.MO ≡
        s.cfg.POA * l * (256 - s.cfg.MO) + s.cfg.POA * l * s.cfg.MO [MOD 255] :=
      Nat.ModEq.add_right _ ((Nat.mod_modEq _ _).mul (Nat.mod_modEq _ _))
    rw [← Nat.mul_add, Nat.sub_add_cancel (by omega)] at hmod
    refine hmod.trans ?_
    rw [Nat.ModEq]
    omega
  rw [errorValue, hder, if_neg hX, evaluatorValue_of_oneError he hs, rsForneyBody_cfg, basis_congr (rsForneyBody_cfg s),
    gdiv_eq_gmul_ginv _ _ hX, he.syn_first, gmul_left_comm _ _ (ginv _ _), gmul_left_comm _ _ e, gmul_gexp, powers,
    gmul_left_comm _ _ e, gmul_comm _ (ginv _ _), gmul_ginv _ hX, gmul_gone]

end

/-! ### The stages on one error (R250, R252) -/

/-- What the stages before RS_CORR find of one error: its location and its value, and no cause (R252). -/
structure OneErrorFound (s : State) (l : Nat) (e : Byte) : Prop where
  correctable : s.rs.stage.uncorr = false
  len : s.rs.stage.l = 1
  nloc : s.rs.stage.nloc = 1
  loc : s.loc 0 = BitVec.ofNat 8 l
  mag : s.mag 0 = e

theorem loc_rsForneyBody (s : State) (k : Nat) : (rsForneyBody s).loc k = s.loc k := by
  obtain ⟨omega, mag, h⟩ := rsForneyBody_eq s
  rw [h]
  rfl

theorem flagged_false (st : RsStage) (c : BitVec 2) : flagged st false c = st := by simp [flagged]

/-- RS_BM finds `L = 1`, which is not above `T` (R242). -/
theorem stage_rsBmBody_of_oneError {s : State} {l : Nat} {e : Byte} (he : OneError s l e) :
    (rsBmBody s).rs.stage = { s.rs.stage with l := 1 } := by
  obtain ⟨sigma, h⟩ := rsBmBody_eq s
  have short : decide (s.cfg.T < 1) = false := decide_eq_false (Nat.not_lt.mpr he.one_le_T)
  rw [h, he.len_eq, short, flagged_false]
  rfl

/-- RS_CHIEN finds as many roots as `L` says (R244). -/
theorem stage_rsChienBody_of_root {s : State} {l : Nat} (hroots : s.roots = [l]) (hl : s.rs.stage.l = 1) :
    (rsChienBody s).rs.stage = { s.rs.stage with nloc := 1 } := by
  obtain ⟨loc, h⟩ := rsChienBody_eq s
  have one_root : decide (s.roots.length ≠ s.rs.stage.l.toNat) = false := by rw [hroots, hl]; rfl
  rw [h, one_root, flagged_false, hroots]
  rfl

/-- RS_FORNEY finds a derivative that does not vanish (R246). -/
theorem stage_rsForneyBody_of_oneError {s : State} {l : Nat} {e : Byte} (he : OneError s l e)
    (hs : OneErrorLocator s l) : (rsForneyBody s).rs.stage = s.rs.stage := by
  obtain ⟨omega, mag, h⟩ := rsForneyBody_eq s
  have no_zero : decide (∃ k < min s.rs.stage.nloc.toNat 32, derivativeAt s (s.loc k).toNat = 0) = false := by
    refine decide_eq_false ?_
    rintro ⟨k, -, hzero⟩
    rw [derivativeAt_of_oneError he hs] at hzero
    exact gexp_ne_zero _ _ hzero
  rw [h, no_zero, flagged_false]
  rfl

/-- With no cause found on the way, all five stages run (R250). -/
theorem correctCodeword_of_correctable {s : State} (il : Nat) (hb : (rsBmBody s).rs.stage.uncorr = false)
    (hc : (rsChienBody (rsBmBody s)).rs.stage.uncorr = false) :
    correctCodeword il s = rsCorrBody il (rsForneyBody (rsChienBody (rsBmBody s))) := by
  simp only [correctCodeword, hb, hc, Bool.false_eq_true, if_false]

/-- RS_CORR runs on a state that holds the error's location and value (R252). -/
theorem exists_oneErrorFound {s : State} {l : Nat} {e : Byte} (il : Nat) (he : OneError s l e)
    (hu : s.rs.stage.uncorr = false) :
    ∃ u, s.RsOnly u ∧ OneErrorFound u l e ∧ correctCodeword il s = rsCorrBody il u := by
  have eb : OneError (rsBmBody s) l e := he.congr (rsBmBody_cfg s) (syn_rsBmBody s)
  have ec : OneError (rsChienBody (rsBmBody s)) l e := eb.congr (rsChienBody_cfg _) (syn_rsChienBody _)
  have lc : OneErrorLocator (rsChienBody (rsBmBody s)) l := he.locator.congr (rsChienBody_cfg _) (sigma_rsChienBody _)
  have hroots := he.locator.roots_eq eb.rsOk eb.real
  have stageb := stage_rsBmBody_of_oneError he
  have stagec := stage_rsChienBody_of_root hroots (by rw [stageb])
  have hnloc : (rsChienBody (rsBmBody s)).rs.stage.nloc = 1 := by rw [stagec]
  have stagef := stage_rsForneyBody_of_oneError ec lc
  have hloc : (rsChienBody (rsBmBody s)).loc 0 = BitVec.ofNat 8 l := by
    rw [loc_rsChienBody _ (by decide), hroots]
    rfl
  have hreal : (BitVec.ofNat 8 l).toNat = l := Nat.mod_eq_of_lt (by have := he.real; omega)
  refine ⟨_, ((rsBmBody_rsOnly s).trans (rsChienBody_rsOnly _)).trans (rsForneyBody_rsOnly _), ?found,
    correctCodeword_of_correctable il (by rw [stageb]; exact hu) (by rw [stagec, stageb]; exact hu)⟩
  exact {
    correctable := by rw [stagef, stagec, stageb]; exact hu
    len := by rw [stagef, stagec, stageb]
    nloc := by rw [stagef, hnloc]
    loc := by rw [loc_rsForneyBody, hloc]
    mag := by
      rw [mag_rsForneyBody ec.rsOk (by decide), hnloc, if_pos (by decide), hloc, hreal, errorValue_of_oneError ec lc] }

/-- RS_CORR adds the error to the symbol at its location and to no other (R248). -/
theorem symbol_rsCorrBody_of_found {s : State} {il p l : Nat} {e : Byte} (h : OneErrorFound s l e) (hil : il < s.cfg.I)
    (hl : l = 254 - s.cfg.VF - p) (hp : p < 255 - s.cfg.VF) {p' : Nat} :
    symbol (rsCorrBody il s) il p' = symbol s il p' ^^^ if p' = p then e else 0 := by
  have hloc : (s.loc 0).toNat = l := by rw [h.loc]; exact Nat.mod_eq_of_lt (by omega)
  have hposition : 254 - l - s.cfg.VF = p := by omega
  have haddr : corrAddr s il 0 = some (fbBase + (s.cfg.S + p' * s.cfg.I + il)) ↔ p' = p := by
    rw [corrAddr_eq_some_iff, hloc, hposition]
    constructor
    · rintro ⟨-, heq⟩
      rw [fbBase] at heq
      exact (Nat.eq_of_mul_eq_mul_right (Nat.zero_lt_of_lt hil) (by omega)).symm
    · rintro rfl
      exact ⟨by omega, by rw [fbBase]; omega⟩
  have one_correction : s.locCount = 1 := by rw [State.locCount, h.nloc]; rfl
  have sum : correctionAt s il (fbBase + (s.cfg.S + p' * s.cfg.I + il)) = if p' = p then e else 0 := by
    rw [correctionAt, one_correction, List.range_one, List.filter_singleton]
    by_cases hpp : p' = p
    · rw [if_pos hpp, decide_eq_true (haddr.mpr hpp)]
      exact (xorOver_range_one s.mag).trans h.mag
    · rw [if_neg hpp, decide_eq_false (mt haddr.mp hpp)]
      rfl
  rw [← sum, symbol, rsCorrBody_cfg]
  exact byteAt_rsCorrBody il s _ h.correctable

/-- RS_SYN finds the syndrome of the one error in its interleave (R240). -/
theorem oneError_rsSynBody {s s₀ : State} {il p : Nat} (hc : RsOk s.cfg) (hcfg : s₀.cfg = s.cfg)
    (hvalid : ValidCodeword s₀ il) (hp : p < 255 - s.cfg.VF)
    (hother : ∀ p' < 255 - s.cfg.VF, p' ≠ p → symbol s il p' = symbol s₀ il p')
    (herror : symbol s il p ≠ symbol s₀ il p) :
    OneError (rsSynBody il s) (254 - s.cfg.VF - p) (symbol s il p ^^^ symbol s₀ il p) where
  rsOk := by rw [rsSynBody_cfg]; exact hc
  real := by rw [rsSynBody_cfg]; omega
  value := mt (byte_xor_eq_zero_iff _ _).mp herror
  syn := fun i hi => by
    rw [rsSynBody_cfg] at hi ⊢
    have hT := T_le_of_rsOk hc
    have hzero : receivedAt s₀ il (s.cfg.POA * (s.cfg.MO + i)) = 0 := by
      rw [← hcfg] at hi ⊢
      exact hvalid i hi
    rw [syn_rsSynBody il s (by omega), if_pos hi, receivedAt_of_error hcfg hp hother, hzero, byte_zero_xor,
      basis_congr (rsSynBody_cfg il s)]

theorem uncorr_rsSynBody (il : Nat) (s : State) : (rsSynBody il s).rs.stage.uncorr = false := rfl

/-- The stages of an interleave with one error restore its codeword and report one error (R252). -/
theorem codewordStages_of_oneError {s s₀ : State} {il p : Nat} (hc : RsOk s.cfg) (hil : il < s.cfg.I)
    (hcfg : s₀.cfg = s.cfg) (hvalid : ValidCodeword s₀ il) (hp : p < 255 - s.cfg.VF)
    (hother : ∀ p' < 255 - s.cfg.VF, p' ≠ p → symbol s il p' = symbol s₀ il p')
    (herror : symbol s il p ≠ symbol s₀ il p) :
    reportOf (codewordStages il s).rs.stage = ⟨1, false, false⟩ ∧
      ∀ p' < 255 - s.cfg.VF, symbol (codewordStages il s) il p' = symbol s₀ il p' := by
  have he := oneError_rsSynBody hc hcfg hvalid hp hother herror
  have hT := he.one_le_T
  have hsynNz : (rsSynBody il s).rs.stage.synNz = true :=
    (synNz_rsSynBody il s).mpr ⟨0, by rw [rsSynBody_cfg] at hT; omega, he.syn_first_ne_zero⟩
  obtain ⟨u, hu, found, heq⟩ := exists_oneErrorFound il he (uncorr_rsSynBody il s)
  have hframe := (rsSynBody_rsOnly il s).trans hu
  have ucfg : u.cfg = s.cfg := hframe.1.cfg
  have hnz := synNz_codewordStages (s := s) (il := il)
  rw [codewordStages_of_error hsynNz, heq] at hnz ⊢
  rw [hsynNz] at hnz
  constructor
  · rw [reportOf_corrected hnz (by rw [rsCorrBody_rs]; exact found.correctable), rsCorrBody_rs, found.len]
    rfl
  · intro p' hp'
    rw [symbol_rsCorrBody_of_found (p := p) found (by rwa [ucfg]) (by rw [ucfg]) (by rwa [ucfg]),
      symbol_congr ucfg hframe.2]
    by_cases hpp : p' = p
    · rw [if_pos hpp, hpp, ← BitVec.xor_assoc, byte_xor_self, byte_zero_xor]
    · rw [if_neg hpp, byte_xor_zero, hother p' hp' hpp]

/-! ### The frame (R252) -/

section
variable {s s₀ : State} (hc : FrameOk s.cfg) (hcfg : s₀.cfg = s.cfg) {k : Nat} (hk : k < s.cfg.I)
  (hvalid : ValidCodeword s₀ k)
include hc hcfg hk hvalid

/-- An interleave without an error is reported clean and left as it is (R252). -/
theorem report_of_noError (h : ∀ p < 255 - s.cfg.VF, symbol s k p = symbol s₀ k p) :
    reportAt s k = ⟨0, false, true⟩ ∧ ∀ p < 255 - s.cfg.VF, symbol (rsDecodeBody s) k p = symbol s₀ k p := by
  have hv : ValidCodeword s k := fun i hi => by
    rw [← receivedAt_congr hcfg fun p hp => (h p hp).symm]
    rw [← hcfg] at hi ⊢
    exact hvalid i hi
  have clean := synNz_stageAt_of_valid hc hk hv
  refine ⟨by rw [reportAt, if_pos hk, reportOf_clean clean], fun p hp => ?_⟩
  rw [symbol_rsDecodeBody hc hk, symbol_congr codewordStages_cfg (codewordStages_mem_of_stageAt hc hk (.inl clean)),
    symbol_hostChain_before hc hk (Nat.le_refl _), h p hp]

/-- An interleave with one error is reported with one error and restored (R252). -/
theorem report_of_oneError {p : Nat} (hp : p < 255 - s.cfg.VF)
    (hother : ∀ p' < 255 - s.cfg.VF, p' ≠ p → symbol s k p' = symbol s₀ k p') (herror : symbol s k p ≠ symbol s₀ k p) :
    reportAt s k = ⟨1, false, false⟩ ∧ ∀ p' < 255 - s.cfg.VF, symbol (rsDecodeBody s) k p' = symbol s₀ k p' := by
  have ccfg := cfg_hostChain hc (Nat.le_of_lt hk)
  have before := symbol_hostChain_before hc hk (Nat.le_refl k)
  obtain ⟨report, restored⟩ := codewordStages_of_oneError (s := hostChain s k) (s₀ := s₀) (il := k) (p := p)
    (by rw [ccfg]; exact rsOk_of_frameOk hc) (by rwa [ccfg]) (hcfg.trans ccfg.symm) hvalid (by rwa [ccfg])
    (by simpa only [before, ccfg] using hother) (by rwa [before])
  rw [ccfg] at restored
  refine ⟨?_, fun p' hp' => ?_⟩
  · rw [reportAt, if_pos hk, stageAt, (sameStage_hostChain_succ hc hk).stage, report]
  · rw [symbol_rsDecodeBody hc hk, restored p' hp']

/-- With at most one error an interleave is restored, and counts 1 where it had one (R252). -/
theorem report_of_atMostOneError {p : Nat}
    (hother : ∀ p' < 255 - s.cfg.VF, p' ≠ p → symbol s k p' = symbol s₀ k p') :
    (reportAt s k).uncorr = false ∧
      (reportAt s k).cnt.toNat = (decide (∃ p < 255 - s.cfg.VF, symbol s k p ≠ symbol s₀ k p)).toNat ∧
      ∀ p < 255 - s.cfg.VF, symbol (rsDecodeBody s) k p = symbol s₀ k p := by
  by_cases herror : ∃ p < 255 - s.cfg.VF, symbol s k p ≠ symbol s₀ k p
  · obtain ⟨q, hq, hne⟩ := herror
    obtain rfl : q = p := by_contra fun hqp => hne (hother q hq hqp)
    obtain ⟨report, restored⟩ := report_of_oneError hc hcfg hk hvalid hq hother hne
    rw [report, decide_eq_true ⟨q, hq, hne⟩]
    exact ⟨rfl, rfl, restored⟩
  · rw [decide_eq_false herror]
    push Not at herror
    obtain ⟨report, kept⟩ := report_of_noError hc hcfg hk hvalid herror
    rw [report]
    exact ⟨rfl, rfl, kept⟩

end

/-- Settles O30: each interleave is restored by its own stages, and the counts of 1 add up to their number. -/
theorem singleSymbolErrorsAreCorrected : Obligations.SingleSymbolErrorsAreCorrected := by
  intro s₀ s hc hcfg hvalid herrors
  have restored (k : Nat) (hk : k < s.cfg.I) :=
    report_of_atMostOneError hc hcfg hk (hvalid k hk) (herrors k hk).choose_spec
  have correctable (k : Nat) (hk : k < s.cfg.I) : (reportAt s k).uncorr = false := (restored k hk).1
  have count (k : Nat) (hk : k < s.cfg.I) := (restored k hk).2.1
  refine ⟨(rsDecodeBody s).complete .ok, exec_rsDecode hc, fun k hk => (restored k hk).2.2, ?unc, ?corr⟩
  case unc =>
    refine BitVec.eq_of_toNat_eq ?_
    rw [State.complete_rs, unc_rsDecodeBody hc,
      sum_map_eq_zero fun k hk => by rw [correctable k (List.mem_range.mp hk)]; rfl]
    rfl
  case corr =>
    rw [State.complete_rs, corr_rsDecodeBody hc, length_filter_eq_sum]
    exact congrArg List.sum (List.map_congr_left fun k hk => count k (List.mem_range.mp hk))

end Sys2Proof.Proofs
end

section
/-! PROOF. The DR unit (R280 to R284): the PN register holds the next eight mask bits, so the generated mask is the
register read every eight steps, and the table follows it from byte to byte. -/

namespace Sys2Proof.Proofs
open Sys2Proof.Machine Sys2Proof.Claims

/-! ### The PN register (R280) -/

theorem getLsbD_pnShift (r : Byte) {i : Nat} (hi : i < 7) : (pnShift r).getLsbD i = r.getLsbD (i + 1) := by
  refine BitVec.getLsbD_append.trans ?_
  rw [if_pos hi, BitVec.getLsbD_extractLsb', decide_eq_true hi, Bool.true_and, Nat.add_comm]

/-- What the register holds comes out bit by bit, the lowest first (R280). -/
theorem getLsbD_pnReg_add (n : Nat) : ∀ j i : Nat, i + j < 8 → (pnReg (n + j)).getLsbD i = (pnReg n).getLsbD (i + j)
  | 0, _, _ => rfl
  | j + 1, i, h => by
    have shift : (pnReg (n + (j + 1))).getLsbD i = (pnReg (n + j)).getLsbD (i + 1) :=
      getLsbD_pnShift (pnReg (n + j)) (by omega)
    rw [shift, getLsbD_pnReg_add n j (i + 1) (by omega), Nat.add_assoc, Nat.add_comm 1 j]

/-- So mask byte `k` is the register after `8k` steps, its lowest bit first (R280). -/
theorem pnGenerated_eq_reverse (k : Nat) : pnGenerated k = (pnReg (8 * k)).reverse := by
  have bits (j : Nat) (hj : j < 8) : (pnReg (8 * k + j)).getLsbD 0 = (pnReg (8 * k)).getLsbD j := by
    rw [getLsbD_pnReg_add (8 * k) j 0 (by omega), Nat.zero_add]
  refine BitVec.eq_of_getMsbD_eq fun i hi => ?_
  rw [BitVec.getMsbD_reverse, ← bits i hi]
  simp [pnGenerated, hi]

/-! ### The mask (R281) -/

theorem pnByte_mod_period (k : Nat) : pnByte (k % 255) = pnByte k :=
  Function.Periodic.map_mod_nat pnByte_add_period k

/-- Eight steps of the register lead from each byte of the table to the next, from the last to the first too. -/
theorem reverse_pnByte_succ (k : Nat) : (pnByte (k + 1)).reverse = pnShift^[8] (pnByte k).reverse := by
  have table : ∀ i : Fin 255, (pnByte (i + 1)).reverse = pnShift^[8] (pnByte i).reverse := by decide +kernel
  have succ_mod : pnByte (k % 255 + 1) = pnByte (k + 1) := by
    rw [← pnByte_mod_period, Nat.mod_add_mod, pnByte_mod_period]
  rw [← succ_mod, ← pnByte_mod_period k]
  exact table ⟨k % 255, Nat.mod_lt k (by decide)⟩

theorem pnReg_eq_reverse (k : Nat) : pnReg (8 * k) = (pnByte k).reverse := by
  induction k with
  | zero => decide
  | succ k ih => rw [reverse_pnByte_succ, ← ih]; rfl

theorem pnByte_eq_pnGenerated (k : Nat) : pnByte k = pnGenerated k := by
  rw [pnGenerated_eq_reverse, pnReg_eq_reverse, BitVec.reverse_reverse_eq]

/-! ### DR_APPLY (R283) -/

theorem exec_drApply {s : State} (hc : FrameOk s.cfg) : exec .drApply s = .next ((drApplyBody s).complete .ok) := by
  have passed : firstFailure (checksOf .drApply s) = none := by simp [checksOf, frameOk_of_claim hc]
  exact exec_passed passed

theorem cfg_drApplyBody (s : State) : (drApplyBody s).cfg = s.cfg := (drApplyBody_memOnly s).cfg

/-- Settles O31: the register gives each mask byte eight steps after the one before, as the table does, and the masking
loop writes the RAM alone. -/
theorem drApplyMasksTheFrame : Obligations.DrApplyMasksTheFrame := by
  refine ⟨fun k => ⟨pnByte_eq_pnGenerated k, (pnByte_mod_period k).symm⟩, fun s hc => ?_⟩
  refine ⟨(drApplyBody s).complete .ok, exec_drApply hc, ?frame, fun a => ?mask⟩
  case frame => rw [complete_ok, drApplyBody_memOnly s]
  case mask => rw [State.byteAt_complete, byteAt_drApplyBody, ← pnByte_eq_pnGenerated, pnByte_mod_period]

/-- Settles O32: each byte of the frame takes the same mask byte twice, which cancels. -/
theorem drApplyTwiceIsIdentity : Obligations.DrApplyTwiceIsIdentity := by
  intro s hc
  have hcfg : ((drApplyBody s).complete .ok).cfg = s.cfg := cfg_drApplyBody s
  refine ⟨_, _, exec_drApply hc, exec_drApply (hcfg ▸ hc), fun a => ?_⟩
  rw [State.byteAt_complete, byteAt_drApplyBody, hcfg, State.byteAt_complete, byteAt_drApplyBody]
  split
  · rw [BitVec.xor_assoc, byte_xor_self, byte_xor_zero]
  · rfl

/-! ### SYNC_SKIP (R293) -/

/-- Settles O35: `RDPTR` goes as far as the operand says or as the stream goes, and EOS says which. -/
theorem syncSkipMovesReadPointer : Obligations.SyncSkipMovesReadPointer := by
  intro s n
  rw [exec_passed rfl, complete_ok]
  by_cases h : s.rdptr + n ≤ s.inLen
  · simp only [bodyOf, syncSkipBody, if_pos h, decide_eq_false (Nat.not_lt.mpr h)]
    rfl
  · simp only [bodyOf, syncSkipBody, if_neg h, decide_eq_true (Nat.not_le.mp h), setRdptr_inLen]
    rfl

end Sys2Proof.Proofs
end

section
/-! PROOF. CADU_READ's outcomes (R312 to R315): the stream ends before the marker, or the read begins, and then its
payload is whole or short. -/

namespace Sys2Proof.Proofs
open Sys2Proof.Machine Sys2Proof.Claims

/-! ### A whole frame (R312, R316) -/

theorem exists_derandomized (s : State) :
    ∃ t, (if s.cfg.rsCfg.drEn then drApplyBody s else s) = t ∧ s.MemOnly t := by
  refine ⟨_, rfl, ?_⟩
  split
  · exact drApplyBody_memOnly s
  · exact .rfl s

/-- Everything `finishFrame` can do: whichever stages run, it counts the frame, and the RS registers are RS_DECODE's to
write. -/
theorem finishFrame_eq (s : State) : ∃ rs mem, (rs = s.rs ∨ s.cfg.rsCfg.rsEn = true) ∧
    finishFrame s = { s with
      status := { s.status with frameValid := true },
      stream := { s.stream with caduCount := s.stream.caduCount + 1 }, rs := rs, mem := mem } := by
  obtain ⟨t, hderand, hmem⟩ := exists_derandomized s
  simp only [finishFrame, hderand]
  by_cases hrs : t.cfg.rsCfg.rsEn = true
  · rw [if_pos hrs, rsDecodeBody_frame t, hmem]
    exact ⟨_, _, .inr (hmem.cfg ▸ hrs), rfl⟩
  · rw [if_neg hrs, hmem]
    exact ⟨_, _, .inl rfl, rfl⟩

/-! ### The payload (R312, R314) -/

/-- What the payload's end leaves of the state `s` in which it is read, in the registers: the frame is whole and counted,
or the stream ended in it. -/
inductive PayloadOutcome (s t : State) : Prop
  | whole (status : t.status = { s.status with frameValid := true })
      (stream : ∃ q, t.stream = { s.stream with rdptr := q, caduCount := s.stream.caduCount + 1 })
      (rs : t.rs = s.rs ∨ s.cfg.rsCfg.rsEn = true)
  | short (status : t.status = { s.status with short := true, eos := false, frameValid := false })
      (stream : t.stream = { s.stream with rdptr := s.stream.inLen }) (rs : t.rs = s.rs)

theorem payloadOutcome_finishFrame (s : State) (n q : Nat) (f : Nat → Byte) :
    PayloadOutcome s (finishFrame ((s.fillFb s.cfg.S n f).setRdptr q)) := by
  obtain ⟨m, copy, -⟩ := exists_copied s s.cfg.S n f
  rw [copy]
  obtain ⟨rs, m', hrs, hfinish⟩ := finishFrame_eq (State.setRdptr { s with mem := m } q)
  rw [hfinish]
  exact .whole rfl ⟨BitVec.ofNat 17 q, rfl⟩ hrs

theorem payloadOutcome_shortRead (s : State) : PayloadOutcome s (shortRead s.inLen s) := by
  rw [shortRead, setRdptr_inLen]
  exact .short rfl rfl rfl

theorem payloadOutcome_readPayload (q : Nat) (s : State) : PayloadOutcome s (readPayload q s) := by
  by_cases h : s.inLen - q < s.cfg.FLEN - s.cfg.S
  · obtain ⟨m, -, hread⟩ := readPayload_short h
    rw [hread]
    exact .short rfl rfl rfl
  · rw [readPayload, if_neg h]
    exact payloadOutcome_finishFrame s _ _ _

/-! ### The whole read -/

/-- CADU_READ's three outcomes in `STATUS` and the stream registers, and when it may write the RS registers (R312 to
R315). -/
def ReadOutcome (s t : State) : Prop :=
  (t.rs = s.rs ∨ (t.status.frameValid = true ∧ s.cfg.rsCfg.rsEn = true)) ∧
    ((t.status.eos = false ∧ t.status.short = false ∧ t.status.frameValid = true ∧
        t.stream.caduCount = s.stream.caduCount + 1) ∨
      (t.status.eos = true ∧ t.status.short = false ∧ t.status.frameValid = false ∧
        t.status.lockMiss = false ∧ t.stream = { s.stream with rdptr := s.stream.inLen } ∧ t.mem = s.mem) ∨
      (t.status.eos = false ∧ t.status.short = true ∧ t.status.frameValid = false ∧
        t.stream.rdptr = s.stream.inLen ∧ t.stream.caduCount = s.stream.caduCount))

theorem readOutcome_endOfStream (s : State) : ReadOutcome s (endOfStream s) := by
  rw [endOfStream, setRdptr_inLen]
  exact ⟨.inl rfl, .inr (.inl ⟨rfl, rfl, rfl, rfl, rfl, rfl⟩)⟩

/-- `u` is a state in which a read of `s` goes on after the marker bytes (R312, R313). -/
structure ReadBegun (s u : State) : Prop where
  cfg : u.cfg = s.cfg
  rs : u.rs = s.rs
  inLen : u.stream.inLen = s.stream.inLen
  caduCount : u.stream.caduCount = s.stream.caduCount
  eos : u.status.eos = false
  short : u.status.short = false

namespace PayloadOutcome
variable {s u t : State}

/-- A read that began has not ended the stream (R312). -/
theorem eos (h : PayloadOutcome s t) (hs : s.status.eos = false) : t.status.eos = false := by
  cases h with
  | whole status => rw [status]; exact hs
  | short status => rw [status]

theorem found_lockMiss (h : PayloadOutcome s t) :
    t.status.found = s.status.found ∧ t.status.lockMiss = s.status.lockMiss := by
  cases h <;> next status _ _ => rw [status]; exact ⟨rfl, rfl⟩

theorem syncCount (h : PayloadOutcome s t) : t.stream.syncCount = s.stream.syncCount := by
  cases h with
  | whole _ stream => obtain ⟨q, stream⟩ := stream; rw [stream]
  | short _ stream => rw [stream]

theorem readOutcome (h : PayloadOutcome u t) (hu : ReadBegun s u) : ReadOutcome s t := by
  cases h with
  | whole status stream rs =>
    obtain ⟨q, stream⟩ := stream
    rw [hu.rs, hu.cfg] at rs
    rw [ReadOutcome, status, stream]
    exact ⟨rs.imp_right fun h => ⟨rfl, h⟩, .inl ⟨hu.eos, hu.short, rfl, by rw [hu.caduCount]⟩⟩
  | short status stream rs =>
    rw [ReadOutcome, status, stream]
    exact ⟨.inl (rs.trans hu.rs), .inr (.inr ⟨rfl, rfl, rfl, hu.inLen, hu.caduCount⟩)⟩

end PayloadOutcome

/-! ### The two modes -/

/-- Search mode ends the stream where there is no marker, and else begins the read (R312). -/
theorem caduReadBody_search_cases {s : State} (hc : FrameOk s.cfg) :
    ((∀ n, ¬ FoundAfter s n) ∧ caduReadBody .search s = endOfStream s) ∨
      (∃ n, FoundAfter s n) ∧ ∃ u, ReadBegun s u ∧ u.status.found = true ∧ u.status.lockMiss = false ∧
        PayloadOutcome u (caduReadBody .search s) := by
  rcases find_rdptr_cases s hc.2.1 with ⟨n, hn, hfind⟩ | ⟨hnone, hfind⟩
  · obtain ⟨m, -, hbody⟩ := caduReadBody_search_of_find hfind
    rw [hbody]
    exact .inr ⟨⟨n, hn⟩, markerFound s _ m, ⟨rfl, rfl, rfl, rfl, rfl, rfl⟩, rfl, rfl, payloadOutcome_readPayload _ _⟩
  · exact .inl ⟨hnone, by simp only [caduReadBody, caduSearch, hfind]⟩

/-- Locked mode ends the stream where no byte is left, and else begins the read (R313). -/
theorem caduReadBody_locked_cases (s : State) :
    (s.inLen ≤ s.rdptr ∧ caduReadBody .locked s = endOfStream s) ∨
      s.rdptr < s.inLen ∧ ∃ u, ReadBegun s u ∧ u.status.found = false ∧ u.stream.syncCount = s.stream.syncCount ∧
        PayloadOutcome u (caduReadBody .locked s) := by
  rcases Nat.lt_or_ge s.rdptr s.inLen with h | h
  · obtain ⟨m, -, hbody⟩ := caduReadBody_locked_of_lt h
    rw [hbody]
    refine .inr ⟨h, ?_⟩
    split
    · exact ⟨markerTaken s m, ⟨rfl, rfl, rfl, rfl, rfl, rfl⟩, rfl, rfl, payloadOutcome_shortRead (markerTaken s m)⟩
    · exact ⟨(markerTaken s m).setSyncOff _, ⟨rfl, rfl, rfl, rfl, rfl, rfl⟩, rfl, rfl, payloadOutcome_readPayload _ _⟩
  · exact .inl ⟨h, by simp only [caduReadBody, caduLocked, Nat.sub_eq_zero_of_le h, if_pos]⟩

/-- A read in search mode: its outcome, and what it reports of the search. -/
theorem caduReadBody_search_outcome {s t : State} (hc : FrameOk s.cfg) (ht : caduReadBody .search s = t) :
    ReadOutcome s t ∧ t.status.lockMiss = false ∧ t.status.found = !t.status.eos ∧
      (t.status.eos = true ↔ ∀ n, ¬ FoundAfter s n) := by
  subst ht
  rcases caduReadBody_search_cases hc with ⟨hnone, hbody⟩ | ⟨⟨n, hn⟩, u, hu, hfound, hmiss, hpayload⟩
  · rw [hbody]
    exact ⟨readOutcome_endOfStream s, rfl, rfl, fun _ => hnone, fun _ => rfl⟩
  · have heos := hpayload.eos hu.eos
    obtain ⟨found, lockMiss⟩ := hpayload.found_lockMiss
    rw [found, lockMiss, heos]
    exact ⟨hpayload.readOutcome hu, hmiss, hfound, nofun, fun h => absurd hn (h n)⟩

/-- A read in locked mode: its outcome, and that it searches nothing. -/
theorem caduReadBody_locked_outcome {s t : State} (ht : caduReadBody .locked s = t) :
    ReadOutcome s t ∧ t.status.found = false ∧ t.stream.syncCount = s.stream.syncCount ∧
      (t.status.eos = true ↔ s.inLen ≤ s.rdptr) := by
  subst ht
  rcases caduReadBody_locked_cases s with ⟨hend, hbody⟩ | ⟨hlt, u, hu, hfound, hcount, hpayload⟩
  · rw [hbody]
    exact ⟨readOutcome_endOfStream s, rfl, rfl, fun _ => hend, fun _ => rfl⟩
  · have heos := hpayload.eos hu.eos
    rw [hpayload.found_lockMiss.1, hpayload.syncCount, heos]
    exact ⟨hpayload.readOutcome hu, hfound, hcount, nofun, fun h => absurd h (Nat.not_le.mpr hlt)⟩

/-- Settles O36: the body keeps its frame, and each mode ends the stream or reads a payload that is whole or short. -/
theorem caduReadOutcomes : Obligations.CaduReadOutcomes := by
  intro s lk hp hc
  have hframe := caduFrame_caduReadBody lk s
  have hrest : caduReadBody lk s = _ := hframe.rest
  refine ⟨_, exec_caduRead lk hp hc, ?frame, hframe.outside, ?_⟩
  case frame =>
    rw [hrest]
    rfl
  cases lk with
  | search =>
    obtain ⟨⟨rs, outcome⟩, report⟩ := caduReadBody_search_outcome hc rfl
    exact ⟨rs, outcome, nofun, fun _ => report⟩
  | locked =>
    obtain ⟨⟨rs, outcome⟩, report⟩ := caduReadBody_locked_outcome (s := s) rfl
    exact ⟨rs, outcome, fun _ => report, nofun⟩

end Sys2Proof.Proofs
end

section
/-! PROOF. The order of CADU_READ (R316): what derandomizing and decoding read, and that a read with both stages off is
the same read without them. -/

namespace Sys2Proof.Proofs
open Sys2Proof.Machine Sys2Proof.Claims

/-! ### What DR_APPLY and RS_DECODE read (R250, R283) -/

/-- `s` and `t` agree on what DR_APPLY and RS_DECODE read and write: the configuration, the RAM and the RS registers. -/
structure SameFrame (s t : State) : Prop where
  cfg : s.cfg = t.cfg
  mem : s.mem = t.mem
  rs : s.rs = t.rs

theorem SameStage.symm {s t : State} (h : SameStage s t) : SameStage t s :=
  ⟨h.cfg.symm, h.mem.symm, h.scratch.symm, h.stage.symm⟩

theorem SameStage.trans {s t u : State} (h : SameStage s t) (h' : SameStage t u) : SameStage s u :=
  ⟨h.cfg.trans h'.cfg, h.mem.trans h'.mem, h.scratch.trans h'.scratch, h.stage.trans h'.stage⟩

/-- Both runs of an interleave are the host's run of it (R251). -/
theorem SameStage.codewordStages {s t : State} (h : SameStage s t) {il : Nat} (hc : FrameOk s.cfg)
    (hil : il < s.cfg.I) : SameStage (codewordStages il s) (codewordStages il t) :=
  ((SameStage.refl s).stagesByHost hc hil).symm.trans (h.stagesByHost (h.cfg ▸ hc) (h.cfg ▸ hil))

namespace SameFrame
variable {s t : State} (h : SameFrame s t)
include h

theorem sameStage : SameStage s t := ⟨h.cfg, h.mem, congrArg RsRegs.scratch h.rs, congrArg RsRegs.stage h.rs⟩

theorem skipUnless {s' t' : State} (h' : SameFrame s' t') (b : Bool) :
    SameFrame (if b then s' else s) (if b then t' else t) := by
  cases b
  · exact h
  · exact h'

theorem drApplyBody : SameFrame (drApplyBody s) (drApplyBody t) := by
  rw [Machine.drApplyBody, Machine.drApplyBody, ← h.cfg]
  refine List.foldl_rel h fun k _ s t h => ⟨h.cfg, ?_, h.rs⟩
  rw [State.setFb_mem, State.setFb_mem, h.cfg, h.mem, State.fb_congr h.mem]

/-- The stages of an interleave leave the report registers, so they agree on all the RS registers. -/
theorem codewordStages {il : Nat} (hc : FrameOk s.cfg) (hil : il < s.cfg.I) :
    SameFrame (codewordStages il s) (codewordStages il t) := by
  have hstages := h.sameStage.codewordStages hc hil
  have kept (u : State) : (Proofs.codewordStages il u).rs = _ := OutputsKept.codewordStages il u
  refine ⟨hstages.cfg, hstages.mem, ?_⟩
  rw [kept s, kept t, h.rs, hstages.scratch, hstages.stage]

end SameFrame

/-- `a` and `b` agree on the frame and on the totals of the decode. -/
structure SameDecode (a b : DecodeAcc) : Prop where
  st : SameFrame a.st b.st
  corr : a.corr = b.corr
  unc : a.unc = b.unc
  allClean : a.allClean = b.allClean

theorem SameDecode.decodeIl {a b : DecodeAcc} (h : SameDecode a b) {il : Nat} (hc : FrameOk a.st.cfg)
    (hil : il < a.st.cfg.I) : SameDecode (decodeIl a il) (decodeIl b il) := by
  have hst := h.st.codewordStages hc hil
  rw [decodeIl_eq (rsOk_of_frameOk hc), decodeIl_eq (rsOk_of_frameOk (h.st.cfg ▸ hc)), hst.rs, h.corr,
    h.unc, h.allClean]
  refine ⟨⟨hst.cfg, hst.mem, ?_⟩, rfl, rfl, rfl⟩
  rw [State.setIl_rs, State.setIl_rs, hst.rs]

theorem SameFrame.decodeAll {s t : State} (h : SameFrame s t) (hc : FrameOk s.cfg) :
    SameDecode (decodeAll s) (decodeAll t) := by
  have start : SameDecode ⟨s, 0, 0, true⟩ ⟨t, 0, 0, true⟩ := ⟨h, rfl, rfl, rfl⟩
  rw [Machine.decodeAll, Machine.decodeAll, ← h.cfg]
  refine (List.foldl_rel (r := fun a b => SameDecode a b ∧ a.st.cfg = s.cfg) ⟨start, rfl⟩
    fun il hil a b ⟨hab, hcfg⟩ => ?_).1
  exact ⟨hab.decodeIl (hcfg ▸ hc) (hcfg ▸ List.mem_range.mp hil), (decodeIl_frame a il).cfg.trans hcfg⟩

theorem SameFrame.rsDecodeBody {s t : State} (h : SameFrame s t) (hc : FrameOk s.cfg) :
    SameFrame (rsDecodeBody s) (rsDecodeBody t) := by
  have hall := h.decodeAll hc
  refine ⟨hall.st.cfg, hall.st.mem, ?_⟩
  simp only [Machine.rsDecodeBody, hall.st.rs, hall.corr, hall.unc, hall.allClean, h.cfg]

/-! ### A read with both stages off (R316) -/

/-- The state with `DR_EN` and `RS_EN` clear. -/
def withoutStages (s : State) : State :=
  { s with cfg := { s.cfg with rsCfg := { s.cfg.rsCfg with drEn := false, rsEn := false } } }

section
variable (s : State)

@[simp] theorem inLen_withoutStages : (withoutStages s).inLen = s.inLen := rfl
@[simp] theorem rdptr_withoutStages : (withoutStages s).rdptr = s.rdptr := rfl
@[simp] theorem inByte_withoutStages (i : Nat) : (withoutStages s).inByte i = s.inByte i := rfl
@[simp] theorem S_withoutStages : (withoutStages s).cfg.S = s.cfg.S := rfl
@[simp] theorem FLEN_withoutStages : (withoutStages s).cfg.FLEN = s.cfg.FLEN := rfl

@[simp] theorem setRdptr_withoutStages (q : Nat) : (withoutStages s).setRdptr q = withoutStages (s.setRdptr q) := rfl
@[simp] theorem setSyncOff_withoutStages (q : Nat) :
    (withoutStages s).setSyncOff q = withoutStages (s.setSyncOff q) := rfl
@[simp] theorem countSync_withoutStages : (withoutStages s).countSync = withoutStages s.countSync := rfl
@[simp] theorem setStreamFlags_withoutStages (e sh f m : Bool) :
    (withoutStages s).setStreamFlags e sh f m = withoutStages (s.setStreamFlags e sh f m) := rfl
@[simp] theorem fillFb_withoutStages (base n : Nat) (f : Nat → Byte) :
    (withoutStages s).fillFb base n f = withoutStages (s.fillFb base n f) :=
  List.foldl_hom withoutStages fun _ _ => rfl

theorem searchFrom_withoutStages : ∀ n q idx, searchFrom (withoutStages s) n q idx = searchFrom s n q idx
  | 0, _, _ => rfl
  | n + 1, q, idx => by
    simp only [searchFrom, searchFrom_withoutStages n]
    rfl

@[simp] theorem find_withoutStages (q : Nat) : (withoutStages s).find q = s.find q := searchFrom_withoutStages s _ q 0

end

/-- `t` and `c` end a read with the stages as they are and one with both stages off: a whole frame is in `FB` of the
same state, or both reads end without a frame. -/
inductive ReadEnds (t c : State) : Prop
  | whole (v : State) (read : t = finishFrame v) (plain : c = finishFrame (withoutStages v))
  | noFrame (frameValid : t.status.frameValid = false) (plain : c = withoutStages t)

theorem readEnds_readPayload (q : Nat) (s : State) :
    ReadEnds (readPayload q s) (readPayload q (withoutStages s)) := by
  simp only [readPayload, inLen_withoutStages, S_withoutStages, FLEN_withoutStages, inByte_withoutStages,
    fillFb_withoutStages, setRdptr_withoutStages]
  split
  · exact .noFrame rfl rfl
  · exact .whole _ rfl rfl

theorem readEnds_caduReadBody (lk : ReadMode) (s : State) :
    ReadEnds (caduReadBody lk s) (caduReadBody lk (withoutStages s)) := by
  cases lk with
  | search =>
    simp only [caduReadBody, caduSearch, rdptr_withoutStages, find_withoutStages]
    cases s.find s.rdptr with
    | none => exact .noFrame rfl rfl
    | some r => simpa using readEnds_readPayload r _
  | locked =>
    simp only [caduReadBody, caduLocked, inLen_withoutStages, rdptr_withoutStages,
      S_withoutStages, fillFb_withoutStages]
    split
    · exact .noFrame rfl rfl
    split
    · exact .noFrame rfl rfl
    · exact readEnds_readPayload _ _

/-! ### The commands after the read (R316) -/

/-- DR_APPLY, then RS_DECODE, as the host issues them on a valid frame, each where `c` enables it. -/
def stagesAfterRead (c : CfgRegs) (valid : Bool) (s : State) : State :=
  let s := if valid && c.rsCfg.drEn then after .drApply s else s
  if valid && c.rsCfg.rsEn then after .rsDecode s else s

namespace SameFrame
variable {s t : State} (h : SameFrame s t) (hc : FrameOk s.cfg)
include h hc

theorem after_drApply : SameFrame (Machine.drApplyBody s) (after .drApply t) := by
  have hbody := h.drApplyBody
  rw [after_eq (exec_drApply (h.cfg ▸ hc))]
  exact ⟨hbody.cfg, hbody.mem, hbody.rs⟩

theorem after_rsDecode : SameFrame (Machine.rsDecodeBody s) (after .rsDecode t) := by
  have hbody := h.rsDecodeBody hc
  rw [after_eq (exec_rsDecode (h.cfg ▸ hc))]
  exact ⟨hbody.cfg, hbody.mem, hbody.rs⟩

theorem finishFrame : SameFrame (finishFrame s) (stagesAfterRead s.cfg true t) := by
  obtain ⟨d, hderand, hmem⟩ := exists_derandomized s
  have hd := h.skipUnless (h.after_drApply hc) s.cfg.rsCfg.drEn
  rw [hderand] at hd
  have hdecode := hd.skipUnless (hd.after_rsDecode (hmem.cfg ▸ hc)) d.cfg.rsCfg.rsEn
  rw [Machine.finishFrame, hderand]
  rw [hmem.cfg] at hdecode ⊢
  exact ⟨hdecode.cfg, hdecode.mem, hdecode.rs⟩

end SameFrame

namespace ReadEnds
variable {t c : State}

theorem stream_status (h : ReadEnds t c) : t.stream = c.stream ∧ t.status = c.status := by
  cases h with
  | whole v read plain =>
    obtain ⟨rs, mem, -, registers⟩ := finishFrame_eq v
    rw [read, plain, registers]
    exact ⟨rfl, rfl⟩
  | noFrame _ plain =>
    rw [plain]
    exact ⟨rfl, rfl⟩

/-- The two commands catch up with the read that ran the stages itself (R316). -/
theorem sameFrame (h : ReadEnds t c) {u : State} (hc : FrameOk t.cfg) (hcfg : t.cfg = u.cfg)
    (hmem : c.mem = u.mem) (hrs : c.rs = u.rs) : SameFrame t (stagesAfterRead t.cfg c.status.frameValid u) := by
  have status := h.stream_status.2
  cases h with
  | whole v read plain =>
    rw [plain] at hmem hrs ⊢
    rw [read, (caduFrame_finishFrame v).cfg] at hc hcfg ⊢
    exact SameFrame.finishFrame ⟨hcfg, hmem, hrs⟩ hc
  | noFrame frameValid plain =>
    rw [← status, frameValid]
    rw [plain] at hmem hrs
    exact ⟨hcfg, hmem, hrs⟩

end ReadEnds

/-- Settles O38: with both stages off the read leaves the frame its own stages start from, and the two commands run the
same bodies from there; a read that gets no frame runs no stage. -/
theorem caduReadIsCopyDerandomizeDecode : Obligations.CaduReadIsCopyDerandomizeDecode := by
  intro s lk hp hc
  have hends := readEnds_caduReadBody lk s
  have hcfg : (caduReadBody lk s).cfg = s.cfg := (caduFrame_caduReadBody lk s).cfg
  obtain ⟨stream, status⟩ := hends.stream_status
  have hstages := hends.sameFrame (hcfg ▸ hc) (u := { caduReadBody lk (withoutStages s) with
    status := doneOk (caduReadBody lk (withoutStages s)).status, cfg := s.cfg }) hcfg rfl rfl
  rw [hcfg] at hstages
  exact ⟨_, _, exec_caduRead lk hp hc, exec_caduRead (s := withoutStages s) lk hp hc, stream, congrArg doneOk status,
    hstages.mem, hstages.rs⟩

end Sys2Proof.Proofs
end

section
/-! PROOF. The DP commands that move no sample (R340 to R366): each reads the frame's virtual channel and header
pointer, and writes the DP registers alone. -/

namespace Sys2Proof.Proofs
open Sys2Proof.Machine Sys2Proof.Claims

variable {s : State}

/-! ### The configuration and the frame, as the claims read them (R68, R69, R342) -/

/-- The claims' `CFG_DP_OK` is the model's (R69). -/
theorem dpOk_of_claim {c : CfgRegs} (h : DpOk c) : c.dpOk = true := by
  obtain ⟨hframe, ⟨hz, hz'⟩, hfit, hw⟩ := h
  exact CfgRegs.dpOk_iff.mpr ⟨frameOk_of_claim hframe, hz, Int.toNat_le.mpr hz', by
    have hz : (c.ZS : Int) = c.ZSeff := Int.toNat_of_nonneg (Int.le_trans (by decide) hz)
    have hfit : (c.ZBASE : Int) + c.ZSeff ≤ c.FLEN := hfit
    omega, hw⟩

/-- A matching frame by the enable bit of its virtual channel (R61, R342). -/
theorem matching_iff : s.matching = true ↔ Matching s := by
  have hv : (s.fb (s.cfg.S + 1) &&& 0x3F).toNat = s.vcid := by
    rw [State.vcid, BitVec.extractLsb'_toNat, BitVec.toNat_and]
    exact Nat.and_two_pow_sub_one_eq_mod _ 6
  rw [Matching, hv, BitVec.getLsbD_append, State.matching, CfgRegs.vcOk]

theorem zs_le (hc : DpOk s.cfg) : zs s ≤ 2047 := by
  obtain ⟨-, ⟨-, hz⟩, -⟩ := hc
  exact Int.toNat_le.mpr hz

/-- The line is not empty and fits its buffer (R69). -/
theorem line_fits (hc : DpOk s.cfg) : 1 ≤ s.cfg.WC ∧ s.cfg.WC ≤ 16384 := by
  obtain ⟨-, -, -, hw⟩ := hc
  exact hw

/-- The zone lies in the buffer (R68, R69). -/
theorem zone_fits (hc : DpOk s.cfg) : s.cfg.ZBASE + zs s ≤ Config.fbSize := by
  obtain ⟨hframe, -, -, hfit, -⟩ := CfgRegs.dpOk_iff.mp (dpOk_of_claim hc)
  exact hfit.trans (CfgRegs.FLEN_le hframe)

theorem be16_zone_toNat (k : Nat) : (be16 (s.zone k) (s.zone (k + 1))).toNat = zonePair s k := by
  rw [be16, toNat_append_add, Nat.mul_comm]
  rfl

/-! ### The packet header (R346, R347) -/

theorem readHeader_eq {f : Nat} (h : f + 1 < zs s) : readHeader f s = s.setDp (headerRead s f) := by
  have hf : f + 1 < s.cfg.ZS := h
  have apid : (be16 (s.zone f) (s.zone (f + 1))).extractLsb' 0 11 = BitVec.ofNat 11 (zonePair s f % 2048) := by
    rw [← be16_zone_toNat]
    exact BitVec.eq_of_toNat_eq (by simp [BitVec.extractLsb'_toNat])
  have seq : (be16 (s.zone (f + 2)) (s.zone (f + 3))).extractLsb' 0 14 =
      BitVec.ofNat 14 (zonePair s (f + 2) % 16384) := by
    rw [← be16_zone_toNat]
    exact BitVec.eq_of_toNat_eq (by simp [BitVec.extractLsb'_toNat])
  rw [readHeader, apid, seq, headerRead, if_pos h]
  rfl

/-- A header cut off by the zone's end is not read (R347). -/
theorem headerRead_of_cut {f : Nat} (h : zs s ≤ f + 1) : headerRead s f = s.dp := by
  rw [headerRead, if_neg (by omega), if_neg (by omega)]

theorem apidOk_iff {c : CfgRegs} {a : BitVec 11} :
    c.apidOk a = true ↔ ∃ k : Fin 8, c.apid[k].v = true ∧ c.apid[k].apid = a := by
  simp only [CfgRegs.apidOk, List.any_eq_true, Vector.mem_toList_iff, Vector.mem_iff_getElem, Bool.and_eq_true,
    beq_iff_eq]
  constructor
  · rintro ⟨e, ⟨k, hk, rfl⟩, h⟩
    exact ⟨⟨k, hk⟩, h⟩
  · rintro ⟨k, h⟩
    exact ⟨_, ⟨k, k.isLt, rfl⟩, h⟩

/-- Where the header lies in the zone, a packet is wanted unless the filter is on and does not know its APID. -/
theorem wanted_iff {f : Nat} (h : f + 1 < zs s) :
    Wanted s f ↔ (s.cfg.dpCfg.apidFilt && !s.cfg.apidOk (headerRead s f).pktApid) = false := by
  have apid : (headerRead s f).pktApid = BitVec.ofNat 11 (zonePair s f % 2048) := if_pos h
  have listed : s.cfg.apidOk (headerRead s f).pktApid = true ↔
      ∃ k : Fin 8, s.cfg.apid[k].v = true ∧ s.cfg.apid[k].apid.toNat = zonePair s f % 2048 := by
    rw [apidOk_iff, apid]
    simp [← BitVec.toNat_inj]
  rw [Wanted, ← listed]
  cases s.cfg.dpCfg.apidFilt <;> simp [h]

/-- `seek` reads the header of the packet at `FHP` and begins a line if the packet is wanted (R346, R347). -/
theorem seek_eq (p₀ : Nat) (s : State) : seek p₀ s =
    let f := headerPointer s
    if f = 0x7FF then s
    else if zs s ≤ f then countProto s
    else if f < p₀ then s
    else
      let t := s.setDp (headerRead s f)
      if Wanted s f then startLine f t else countApSkip t := by
  simp only [seek, fhp_toNat]
  generalize headerPointer s = f
  refine ite_congr rfl (fun _ => rfl) fun _ => ite_congr rfl (fun _ => rfl) fun _ =>
    ite_congr rfl (fun _ => rfl) fun _ => ?_
  by_cases hf : f + 1 < zs s
  · rw [if_pos (show f + 1 < s.cfg.ZS from hf), readHeader_eq hf, State.setDp_dp]
    by_cases hw : Wanted s f
    · rw [if_pos hw, (wanted_iff hf).mp hw, if_neg Bool.false_ne_true]
    · rw [if_neg hw, if_pos (Bool.eq_true_of_not_eq_false fun h => hw ((wanted_iff hf).mpr h))]
  · rw [if_neg (show ¬ f + 1 < s.cfg.ZS from hf), headerRead_of_cut (by omega)]
    have hw : Wanted s f ↔ ¬ s.cfg.dpCfg.apidFilt = true := by simp [Wanted, hf]
    by_cases h : s.cfg.dpCfg.apidFilt = true
    · rw [if_pos h, if_neg fun hw' => hw.mp hw' h]; rfl
    · rw [if_neg h, if_pos (hw.mpr h)]; rfl

theorem seek_of_sentinel {p₀ : Nat} (hf : headerPointer s = 0x7FF) : seek p₀ s = s := by
  rw [seek_eq]
  exact if_pos hf

theorem seek_of_pastZone {p₀ : Nat} (hf : headerPointer s ≠ 0x7FF) (hz : zs s ≤ headerPointer s) :
    seek p₀ s = countProto s := by
  rw [seek_eq]
  exact (if_neg hf).trans (if_pos hz)

/-- A packet before `p₀` was the line's own (R362). -/
theorem seek_of_before {p₀ : Nat} (hc : DpOk s.cfg) (hf : headerPointer s < zs s) (hp : headerPointer s < p₀) :
    seek p₀ s = s := by
  have := zs_le hc
  rw [seek_eq]
  exact (if_neg (by omega)).trans ((if_neg (Nat.not_le.mpr hf)).trans (if_pos hp))

/-- The header of the packet at `FHP` is read into `DP_PKT` (R346). -/
def withHeader (s : State) : State := s.setDp (headerRead s (headerPointer s))

theorem seek_of_packet {p₀ : Nat} (hc : DpOk s.cfg) (hf : headerPointer s < zs s) (hp : p₀ ≤ headerPointer s) :
    seek p₀ s = if Wanted s (headerPointer s) then startLine (headerPointer s) (withHeader s)
      else countApSkip (withHeader s) := by
  have := zs_le hc
  rw [seek_eq]
  exact (if_neg (by omega)).trans ((if_neg (Nat.not_le.mpr hf)).trans (if_neg (Nat.not_lt.mpr hp)))

/-! ### DP_FRAME (R360) -/

theorem exec_dpFrame (hp : s.dp.phase ≠ .lineDone) (hc : DpOk s.cfg) :
    exec .dpFrame s = .next ((dpFrameBody s).complete .ok) := by
  have passed : firstFailure (checksOf .dpFrame s) = none := by simp [checksOf, hp, dpOk_of_claim hc]
  exact exec_passed passed

/-- A DP procedure writes the DP registers and the RAM; the completion adds its fields of `STATUS` (R503). -/
theorem complete_of_dpFrame {t : State} (h : DpFrame s t) :
    t.complete .ok = { s with dp := t.dp, mem := t.mem, status := doneOk s.status } := by
  rw [complete_ok, h.rest]

theorem complete_setDp (d : DpRegs) :
    (s.setDp d).complete .ok = { s with dp := d, status := doneOk s.status } := complete_of_dpFrame (dpFrame_setDp s d)

theorem dpFrameBody_of_not_matching (hm : ¬ Matching s) :
    dpFrameBody s = s.setDp { s.dp with vcSkip := s.dp.vcSkip + 1 } := by
  rw [← matching_iff] at hm
  simp [dpFrameBody, hm]

theorem dpFrameBody_of_seek (hp : s.dp.phase = .seek) (hm : Matching s) : dpFrameBody s = seek 0 s := by
  simp [dpFrameBody, matching_iff.mpr hm, hp]

/-- The unit inside a packet, where the loop runs (R348, R355). -/
def inPacket (s : State) : State := s.setDp { s.dp with phase := .inPkt }

/-- Outside SEEK the line goes on from `DP_SPAN`, where that lies in the zone (R354 (b), R355). -/
theorem dpFrameBody_of_line (hp : s.dp.phase ≠ .seek) (hm : Matching s) : dpFrameBody s =
    if zs s ≤ s.dp.span.toNat then endLine (zs s) (countProto s)
    else unpack s.dp.span.toNat (inPacket s) := by
  simp only [dpFrameBody, matching_iff.mpr hm, hp]
  rfl

/-- Settles O40: outside a line each such frame ends `seek`, or DP_FRAME itself, with a counter and no store. -/
theorem dpFrameWithoutPacket : Obligations.DpFrameWithoutPacket := by
  refine ⟨fun s hp hc hm => ?otherChannel, fun s hp hc hm => ?matching⟩
  case otherChannel => rw [exec_dpFrame hp hc, dpFrameBody_of_not_matching hm, complete_setDp]
  case matching =>
    rw [exec_dpFrame (by simp [hp]) hc, dpFrameBody_of_seek hp hm]
    refine ⟨fun hf => ?sentinel, fun hf hz => ?pastZone, fun hf hw => ?rejected⟩
    case sentinel => rw [seek_of_sentinel hf, complete_ok]
    case pastZone => rw [seek_of_pastZone hf hz, countProto, complete_setDp]
    case rejected =>
      rw [seek_of_packet hc hf (Nat.zero_le _), if_neg hw]
      exact congrArg Host.Outcome.next (complete_setDp _)

/-- The loop tests the line's length first (R349). -/
theorem unpack_of_complete (c : Nat) (hw : s.cfg.WC ≤ s.dp.cursor.toNat) : unpack c s = lineComplete c s := by
  rw [unpack_eq, if_pos hw]

/-- Settles O43: the resume offset is tested before the loop, the line's length before anything else in it. -/
theorem dpFrameEndsLineEarly : Obligations.DpFrameEndsLineEarly := by
  intro s hp hc hm
  rw [exec_dpFrame (by simp [hp]) hc, dpFrameBody_of_line (by simp [hp]) hm]
  refine ⟨fun hz => ?pastZone, fun hz hw => ?short⟩
  case pastZone =>
    rw [if_pos hz]
    exact congrArg Host.Outcome.next (complete_setDp _)
  case short =>
    have shift : s.dp.shift = 6 ↔ s.dp.shift2 = 3 := by
      rw [DpRegs.shift, ← BitVec.toNat_inj]
      simp; omega
    rw [if_neg (Nat.not_le.mpr hz), unpack_of_complete (s := inPacket s) _ hw, ← if_congr shift rfl rfl]
    exact congrArg Host.Outcome.next (complete_setDp _)

/-! ### DP_ACK, DP_FLUSH and DP_RESET (R362 to R366) -/

theorem exec_dpAck (hp : s.dp.phase = .lineDone) (hc : DpOk s.cfg) :
    exec .dpAck s = .next ((dpAckBody s).complete .ok) := by
  have passed : firstFailure (checksOf .dpAck s) = none := by simp [checksOf, hp, dpOk_of_claim hc]
  exact exec_passed passed

/-- The held line released: SEEK, with an empty line (R362). -/
def released (s : State) : State :=
  s.setDp { s.dp with phase := .seek, inc := false, cursor := 0, shift2 := 3, carryV := false }

theorem dpAckBody_of_not_matching (hm : ¬ Matching s) : dpAckBody s = released s := by
  rw [← matching_iff] at hm
  simp only [dpAckBody, hm]
  rfl

theorem dpAckBody_of_matching (hm : Matching s) : dpAckBody s = seek s.dp.pos.toNat (released s) := by
  simp only [dpAckBody, matching_iff.mpr hm]
  rfl

/-- Settles O44: the search is DP_FRAME's from the released state, but for the packets before `POS`. -/
theorem dpAckReleasesAndSeeks : Obligations.DpAckReleasesAndSeeks := by
  intro s hp hc
  have hc' : DpOk (released s).cfg := hc
  rw [exec_dpAck hp hc]
  refine ⟨fun h => congrArg Host.Outcome.next ?release, fun hm hf hz => congrArg Host.Outcome.next ?pastZone,
    fun hm _ hf hpos => ⟨_, rfl, ?packet⟩⟩
  case release =>
    have body : dpAckBody s = released s := by
      by_cases hm : Matching s
      · rw [dpAckBody_of_matching hm]
        rcases h with h | h | ⟨hf, hpos⟩
        · exact absurd hm h
        · exact seek_of_sentinel h
        · exact seek_of_before hc' hf hpos
      · exact dpAckBody_of_not_matching hm
    rw [body]
    exact complete_setDp _
  case pastZone =>
    rw [dpAckBody_of_matching hm, seek_of_pastZone (s := released s) hf hz]
    exact complete_setDp _
  case packet =>
    rw [dpAckBody_of_matching hm, seek_of_packet hc' hf hpos, ← seek_of_packet hc' hf (Nat.zero_le _),
      ← dpFrameBody_of_seek (s := released s) rfl hm]
    exact exec_dpFrame (s := released s) nofun hc'

/-- Settles O45: DP_FLUSH ends the line where one spans, and the registers DP_RESET leaves are literals. -/
theorem dpFlushAndResetEndTheLine : Obligations.DpFlushAndResetEndTheLine := by
  refine ⟨fun s hc => ?flush, fun s => ⟨_, exec_passed rfl, complete_setDp _, ?state, rfl, rfl⟩⟩
  case flush =>
    have passed : firstFailure (checksOf .dpFlush s) = none := by simp [checksOf, dpOk_of_claim hc]
    rw [exec_passed passed]
    refine congrArg Host.Outcome.next ?_
    rw [bodyOf, dpFlushBody]
    split
    · exact complete_setDp _
    · exact complete_ok s
  case state =>
    have reset : ((bodyOf .dpReset s).complete .ok).readReg .dpState = DpRegs.reset.stateWord := rfl
    exact reset.trans (by decide)

end Sys2Proof.Proofs
end

section
/-! PROOF. The unpacking loop (R344 to R351). A fragment is the carry byte, if one is pending, and the zone from the
loop's offset on; sample `j` starts `10 * j` bits after the fragment's first, and the loop's offset, shift and cursor
follow from `j`. -/

namespace Sys2Proof.Proofs
open Sys2Proof.Machine Sys2Proof.Claims

/-! ### Cells in a row (R344, R345) -/

/-- `m` is the RAM of `s` with `SL[first + j] <- f j` for `j < n`. -/
structure Stored (first n : Nat) (f : Nat → BitVec 16) (s : State) (m : Memory) : Prop where
  cells : ∀ j < n, ({ s with mem := m } : State).sl (first + j) = f j
  outside : ∀ a, a < slBase + 2 * first ∨ slBase + 2 * (first + n) ≤ a → m.byteAt a = s.byteAt a

namespace Stored
variable {first n : Nat} {f : Nat → BitVec 16} {s : State} {m : Memory}

theorem zero : Stored first 0 f s s.mem := ⟨nofun, fun _ _ => rfl⟩

theorem succ (h : Stored first n f s m) :
    Stored first (n + 1) f s (({ s with mem := m } : State).setSl (first + n) (f n)).mem where
  cells j hj := by
    refine (State.sl_setSl { s with mem := m } _ _ _).trans ?_
    by_cases hn : first + n = first + j
    · rw [if_pos hn, Nat.add_left_cancel hn]
    · rw [if_neg hn, h.cells j (by omega)]
  outside a ha := by
    refine (State.byteAt_setSl { s with mem := m } _ _ _).trans ?_
    rw [if_neg (by omega), if_neg (by omega)]
    exact h.outside a (by omega)

theorem sl_outside (h : Stored first n f s m) {i : Nat} (hi : i < first ∨ first + n ≤ i) :
    ({ s with mem := m } : State).sl i = s.sl i :=
  congrArg₂ (· ++ ·) (h.outside _ (by omega)) (h.outside _ (by omega))

/-- The zone lies in `FB`, so no cell overlaps it (R101). -/
theorem zoneByte_eq (h : Stored first n f s m) (hc : DpOk s.cfg) (d : DpRegs) {k : Nat} (hk : k < zs s) :
    zoneByte { s with mem := m, dp := d } k = zoneByte s k := by
  have := zone_fits hc
  refine h.outside _ (.inl ?_)
  simp only [CfgRegs.ZBASE, Config.fbSize] at this
  simp only [fbBase, slBase]
  omega

end Stored

/-! ### Samples (R349, R350) -/

/-- A sample lies in two bytes. -/
theorem sampleAt_congr {b b' : Nat → Byte} {bit bit' : Nat} (hbit : bit' % 8 = bit % 8)
    (h : ∀ i < 2, b' (bit' / 8 + i) = b (bit / 8 + i)) : sampleAt b' bit' = sampleAt b bit := by
  have first : b' (bit' / 8) = b (bit / 8) := h 0 (by decide)
  rw [sampleAt, sampleAt, first, h 1 (by decide), hbit]

theorem sampleOf_eq (b : Nat → Byte) (k : BitVec 2) :
    (sampleOf (be16 (b 0) (b 1)) (2 * k.toNat)).setWidth 16 = BitVec.ofNat 16 (sampleAt b (6 - 2 * k.toNat)) := by
  have hk := k.isLt
  have shift : 6 - (6 - 2 * k.toNat) % 8 = 2 * k.toNat := by omega
  refine BitVec.eq_of_toNat_eq ?_
  rw [sampleAt, show (6 - 2 * k.toNat) / 8 = 0 by omega, shift]
  simp only [sampleOf, be16, BitVec.toNat_setWidth, BitVec.toNat_ushiftRight, toNat_append_add, BitVec.toNat_ofNat,
    Nat.shiftRight_eq_div_pow, Nat.mul_comm _ (2 ^ 8)]
  rfl

/-! ### One turn of the loop (R349) -/

/-- The bytes of a pending carry: one or none (R351). -/
def carriedBytes (s : State) : Nat := if s.dp.carryV then 1 else 0

/-- Byte `k` of the fragment at zone offset `c`. -/
def fragmentByte (s : State) (c k : Nat) : Byte :=
  if k < carriedBytes s then s.dp.carry else zoneByte s (c + (k - carriedBytes s))

/-- The length of the fragment at zone offset `c`. -/
def fragmentLen (s : State) (c : Nat) : Nat := carriedBytes s + (zs s - c)

/-- The bit of the fragment where the next sample starts (R350). -/
def firstBit (s : State) : Nat := 6 - 2 * s.dp.shift2.toNat

/-- The next sample is stored, and the loop's registers stand at the one after it. -/
def takeNext (c : Nat) (s : State) : State :=
  (s.setSl s.dp.cursor.toNat (BitVec.ofNat 16 (sampleAt (fragmentByte s c) (firstBit s)))).setDp
    { s.dp with cursor := s.dp.cursor + 1, shift2 := nextShift2 s.dp.shift2, carryV := false }

section
variable {s : State} {c : Nat}

theorem carriedBytes_of_true (hv : s.dp.carryV = true) : carriedBytes s = 1 := if_pos hv

theorem carriedBytes_of_false (hv : s.dp.carryV = false) : carriedBytes s = 0 := if_neg (by simp [hv])

theorem takeCarried_eq (hv : s.dp.carryV = true) : takeCarried c s = takeNext c s := by
  rw [takeNext, firstBit, ← sampleOf_eq]
  simp only [fragmentByte, carriedBytes_of_true hv]
  rfl

theorem takeSample_eq (hv : s.dp.carryV = false) : takeSample c s = takeNext c s := by
  have kept : takeSample c s =
      (s.setSl s.dp.cursor.toNat ((sampleOf (be16 (s.zone c) (s.zone (c + 1))) s.dp.shift).setWidth 16)).setDp
        { s.dp with cursor := s.dp.cursor + 1, shift2 := nextShift2 s.dp.shift2, carryV := s.dp.carryV } := rfl
  rw [kept, hv, takeNext, firstBit, ← sampleOf_eq]
  simp only [fragmentByte, carriedBytes_of_false hv]
  rfl

variable (hw : s.dp.cursor.toNat < s.cfg.WC)
include hw

/-- While the line wants a sample and two bytes are left, the next sample is taken. -/
theorem unpack_of_sample (hl : 2 ≤ fragmentLen s c) :
    unpack c s = unpack (c + ((firstBit s + 10) / 8 - carriedBytes s)) (takeNext c s) := by
  have hk := s.dp.shift2.isLt
  have hzs : s.cfg.ZS = zs s := rfl
  have hb : firstBit s = 6 - s.dp.shift := rfl
  have hs : s.dp.shift = 2 * s.dp.shift2.toNat := rfl
  rw [unpack_eq, if_neg (Nat.not_le.mpr hw)]
  by_cases hv : s.dp.carryV = true
  · rw [if_pos hv, takeCarried_eq hv, carriedBytes_of_true hv]
    congr 1
    split <;> omega
  · have hv' : s.dp.carryV = false := by simpa using hv
    rw [fragmentLen, carriedBytes_of_false hv'] at hl
    rw [if_neg hv, if_neg (by omega), if_neg (by omega), takeSample_eq hv', carriedBytes_of_false hv']
    congr 1
    split <;> omega

/-- With at most one byte left the line spans, and the byte is carried (R349, R351). -/
theorem unpack_of_used_up (hl : fragmentLen s c ≤ 1) (hv : s.dp.carryV = false) :
    unpack c s = s.setDp { s.dp with
      phase := .span, span := 0, carryV := decide (c < zs s),
      carry := if c < zs s then zoneByte s (zs s - 1) else s.dp.carry } := by
  have hzs : s.cfg.ZS = zs s := rfl
  rw [fragmentLen, carriedBytes_of_false hv] at hl
  rw [unpack_eq, if_neg (Nat.not_le.mpr hw), if_neg (by simp [hv])]
  by_cases hz : c < zs s
  · rw [if_neg (by omega), if_pos (by omega), decide_eq_true hz, if_pos hz, show zs s - 1 = c by omega]
    rfl
  · rw [if_pos (by omega), decide_eq_false hz, if_neg hz, ← hv]
    rfl

end

/-! ### After `j` samples -/

section
variable {s : State} {c : Nat}

/-- The bit of the fragment after `j` samples (R350). -/
def bitAfter (s : State) (j : Nat) : Nat := firstBit s + 10 * j

/-- The loop's zone offset after `j` samples. -/
def offsetAfter (s : State) (c j : Nat) : Nat := c + (bitAfter s j / 8 - carriedBytes s)

/-- The DP registers after `j` samples. -/
def dpAfter (s : State) (j : Nat) : DpRegs :=
  { s.dp with
    cursor := BitVec.ofNat 15 (s.dp.cursor.toNat + j), shift2 := BitVec.ofNat 2 ((6 - bitAfter s j % 8) / 2),
    carryV := s.dp.carryV && decide (j = 0) }

/-- The state after `j` samples, `m` the RAM. -/
def stateAfter (s : State) (m : Memory) (j : Nat) : State := { s with mem := m, dp := dpAfter s j }

/-- Sample `j` of the fragment, as its cell holds it. -/
def fragmentCell (s : State) (c j : Nat) : BitVec 16 := BitVec.ofNat 16 (sampleAt (fragmentByte s c) (bitAfter s j))

theorem carriedBytes_le (s : State) : carriedBytes s ≤ 1 := by
  unfold carriedBytes
  split <;> decide

theorem firstBit_even (s : State) : ∃ k ≤ 3, firstBit s = 2 * k := by
  have := s.dp.shift2.isLt
  exact ⟨3 - s.dp.shift2.toNat, by omega, by simp only [firstBit]; omega⟩

theorem dpAfter_zero (s : State) : dpAfter s 0 = s.dp := by
  have := s.dp.shift2.isLt
  have shift : (6 - bitAfter s 0 % 8) / 2 = s.dp.shift2.toNat := by simp only [bitAfter, firstBit]; omega
  simp [dpAfter, shift]

theorem offsetAfter_zero (s : State) (c : Nat) : offsetAfter s c 0 = c := by
  obtain ⟨k, hk, hb⟩ := firstBit_even s
  simp only [offsetAfter, bitAfter]
  omega

section
variable {j : Nat} {m : Memory}

theorem firstBit_after (s : State) (j : Nat) (m : Memory) : firstBit (stateAfter s m j) = bitAfter s j % 8 := by
  obtain ⟨k, hk, hb⟩ := firstBit_even s
  change 6 - 2 * (BitVec.ofNat 2 ((6 - bitAfter s j % 8) / 2)).toNat = _
  rw [bitAfter, hb, BitVec.toNat_ofNat]
  omega

theorem carriedBytes_after (s : State) (j : Nat) (m : Memory) :
    carriedBytes (stateAfter s m j) = if j = 0 then carriedBytes s else 0 := by
  by_cases hj : j = 0 <;> simp [carriedBytes, stateAfter, dpAfter, hj]

theorem fragmentLen_after (m : Memory) (h : bitAfter s j ≤ 8 * fragmentLen s c) :
    fragmentLen (stateAfter s m j) (offsetAfter s c j) = fragmentLen s c - bitAfter s j / 8 := by
  have := carriedBytes_le s
  obtain ⟨k, hk, hb⟩ := firstBit_even s
  rw [fragmentLen, carriedBytes_after]
  change _ + (zs s - offsetAfter s c j) = _
  simp only [fragmentLen, offsetAfter, bitAfter] at *
  split <;> omega

variable (hc : DpOk s.cfg) {first n : Nat} {f : Nat → BitVec 16} (hm : Stored first n f s m)
include hc hm

/-- The fragment after `j` samples is the rest of the first one, from the byte where the next sample starts. -/
theorem fragmentByte_after {i : Nat} (hi : bitAfter s j / 8 + i < fragmentLen s c) :
    fragmentByte (stateAfter s m j) (offsetAfter s c j) i = fragmentByte s c (bitAfter s j / 8 + i) := by
  have := carriedBytes_le s
  obtain ⟨k, hk, hb⟩ := firstBit_even s
  rw [fragmentLen] at hi
  rw [fragmentByte, carriedBytes_after, fragmentByte, offsetAfter]
  by_cases h : bitAfter s j / 8 + i < carriedBytes s
  · have hj : j = 0 := by simp only [bitAfter] at h; omega
    rw [if_pos h, if_pos (by rw [if_pos hj]; omega)]
    rfl
  · have index : c + (bitAfter s j / 8 - carriedBytes s) + (i - if j = 0 then carriedBytes s else 0) =
        c + (bitAfter s j / 8 + i - carriedBytes s) := by simp only [bitAfter] at *; split <;> omega
    rw [if_neg h, if_neg (by simp only [bitAfter] at *; split <;> omega), index]
    exact hm.zoneByte_eq hc _ (by omega)

end

theorem dpAfter_succ (s : State) (j : Nat) : dpAfter s (j + 1) = { dpAfter s j with
    cursor := (dpAfter s j).cursor + 1, shift2 := nextShift2 (dpAfter s j).shift2, carryV := false } := by
  obtain ⟨k, hk, hb⟩ := firstBit_even s
  have cursor : BitVec.ofNat 15 (s.dp.cursor.toNat + (j + 1)) = BitVec.ofNat 15 (s.dp.cursor.toNat + j) + 1 := by
    rw [← Nat.add_assoc]
    exact BitVec.ofNat_add _ 1
  have shift : BitVec.ofNat 2 ((6 - bitAfter s (j + 1) % 8) / 2) =
      nextShift2 (BitVec.ofNat 2 ((6 - bitAfter s j % 8) / 2)) := by
    have next : ∀ r < 4, BitVec.ofNat 2 ((6 - (2 * r + 10) % 8) / 2) =
        nextShift2 (BitVec.ofNat 2 ((6 - 2 * r) / 2)) := by decide
    have h := next ((k + j) % 4) (Nat.mod_lt _ (by decide))
    rw [bitAfter, bitAfter, hb]
    convert h using 3 <;> omega
  simp [dpAfter, cursor, shift]

/-- A line completes at the first byte it did not touch (R353). -/
theorem lineComplete_after {j : Nat} (m : Memory) (hj : 0 < j) :
    lineComplete (offsetAfter s c j) (stateAfter s m j) =
      { s with mem := m, dp := completed s.dp (s.dp.cursor.toNat + j) (bitAfter s j)
                 (c + (bitAfter s j + 7) / 8 - carriedBytes s) } := by
  have pos : (if (stateAfter s m j).dp.shift = 6 then offsetAfter s c j else offsetAfter s c j + 1) =
      c + (bitAfter s j + 7) / 8 - carriedBytes s := by
    obtain ⟨k, hk, hb⟩ := firstBit_even s
    have := carriedBytes_le s
    simp only [DpRegs.shift, stateAfter, dpAfter, offsetAfter, bitAfter, BitVec.toNat_ofNat]
    split <;> omega
  rw [lineComplete, pos]
  simp [State.setDp, completed, stateAfter, dpAfter, Nat.pos_iff_ne_zero.mp hj]

variable (hc : DpOk s.cfg)
include hc

theorem cursor_after {j : Nat} (hw : s.dp.cursor.toNat + j ≤ s.cfg.WC) :
    (dpAfter s j).cursor.toNat = s.dp.cursor.toNat + j := by
  obtain ⟨-, hfits⟩ := line_fits hc
  exact Nat.mod_eq_of_lt (by omega)

/-- The next turn stores the next sample of the fragment. -/
theorem takeNext_after {j : Nat} {m : Memory} (hm : Stored s.dp.cursor.toNat j (fragmentCell s c) s m)
    (hw : s.dp.cursor.toNat + j < s.cfg.WC) (hl : bitAfter s (j + 1) ≤ 8 * fragmentLen s c) :
    ∃ m', Stored s.dp.cursor.toNat (j + 1) (fragmentCell s c) s m' ∧
      takeNext (offsetAfter s c j) (stateAfter s m j) = stateAfter s m' (j + 1) := by
  have cursor := cursor_after hc (Nat.le_of_lt hw)
  have cell : BitVec.ofNat 16 (sampleAt (fragmentByte (stateAfter s m j) (offsetAfter s c j))
      (firstBit (stateAfter s m j))) = fragmentCell s c j := by
    obtain ⟨k, hk, hb⟩ := firstBit_even s
    rw [firstBit_after, fragmentCell, sampleAt_congr (Nat.mod_mod _ _)]
    intro i hi
    rw [Nat.div_eq_of_lt (Nat.mod_lt _ (by decide)), Nat.zero_add]
    exact fragmentByte_after hc hm (by simp only [bitAfter] at *; omega)
  refine ⟨_, hm.succ, ?_⟩
  rw [takeNext, cell, stateAfter, stateAfter, dpAfter_succ, ← cursor]
  rfl

/-- The loop takes the samples of the fragment in order, as long as the line wants them (R349). -/
theorem unpack_after : ∀ j, s.dp.cursor.toNat + j ≤ s.cfg.WC → bitAfter s j ≤ 8 * fragmentLen s c →
    ∃ m, Stored s.dp.cursor.toNat j (fragmentCell s c) s m ∧
      unpack c s = unpack (offsetAfter s c j) (stateAfter s m j)
  | 0, _, _ => ⟨s.mem, .zero, by rw [offsetAfter_zero, stateAfter, dpAfter_zero]⟩
  | j + 1, hw, hl => by
    obtain ⟨k, hk, hb⟩ := firstBit_even s
    obtain ⟨m, hm, h⟩ := unpack_after j (by omega) (by simp only [bitAfter] at *; omega)
    obtain ⟨m', hm', next⟩ := takeNext_after hc hm hw hl
    have cursor := cursor_after hc (Nat.le_of_lt hw)
    have wants : (dpAfter s j).cursor.toNat < s.cfg.WC := by omega
    have len := fragmentLen_after (s := s) (c := c) (j := j) m (by simp only [bitAfter] at *; omega)
    have offset : offsetAfter s c j + ((firstBit (stateAfter s m j) + 10) / 8 - carriedBytes (stateAfter s m j)) =
        offsetAfter s c (j + 1) := by
      have := carriedBytes_le s
      rw [firstBit_after, carriedBytes_after]
      simp only [offsetAfter, bitAfter]
      split <;> omega
    refine ⟨m', hm', ?_⟩
    rw [h, unpack_of_sample (s := stateAfter s m j) wants
      (by rw [len]; simp only [bitAfter] at *; omega), next, offset]

/-! ### The whole loop (R349) -/

/-- The registers after the loop: the line is complete, or the zone is used up. -/
def unpackedDp (s : State) (c : Nat) : DpRegs :=
  let n := samplesIn (fragmentLen s c) (firstBit s)
  let m := s.cfg.WC - s.dp.cursor.toNat
  if m ≤ n then completed s.dp s.cfg.WC (bitAfter s m) (c + (bitAfter s m + 7) / 8 - carriedBytes s)
  else spanned s s.dp (s.dp.cursor.toNat + n) (bitAfter s n) (fragmentLen s c)

/-- A line spans once no whole sample is left (R349, R351). -/
theorem spanned_after {j : Nat} {m : Memory} (hm : Stored s.dp.cursor.toNat j (fragmentCell s c) s m) (hz : c < zs s)
    (hw : s.dp.cursor.toNat + j < s.cfg.WC) (hj : j = samplesIn (fragmentLen s c) (firstBit s)) :
    unpack (offsetAfter s c j) (stateAfter s m j) =
      { s with mem := m, dp := spanned s s.dp (s.dp.cursor.toNat + j) (bitAfter s j) (fragmentLen s c) } := by
  obtain ⟨k, hk, hb⟩ := firstBit_even s
  have := carriedBytes_le s
  have cursor := cursor_after hc (Nat.le_of_lt hw)
  have hlen : fragmentLen s c = carriedBytes s + (zs s - c) := rfl
  have wants : (dpAfter s j).cursor.toNat < s.cfg.WC := by omega
  have hbit : bitAfter s j = firstBit s + 10 * j := rfl
  have hn : samplesIn (fragmentLen s c) (firstBit s) = (8 * fragmentLen s c - firstBit s) / 10 := rfl
  have hoff : offsetAfter s c j = c + (bitAfter s j / 8 - carriedBytes s) := rfl
  have noCarry : (dpAfter s j).carryV = false := by
    cases hv : s.dp.carryV with
    | true =>
      have : j ≠ 0 := by rw [carriedBytes_of_true hv] at hlen; omega
      simp [dpAfter, this]
    | false => simp [dpAfter, hv]
  have len := fragmentLen_after (s := s) (c := c) (j := j) m (by omega)
  have left : offsetAfter s c j < zs s ↔ bitAfter s j < 8 * fragmentLen s c := by omega
  rw [unpack_of_used_up (s := stateAfter s m j) wants (by rw [len]; omega) noCarry]
  change { s with mem := m, dp := { dpAfter s j with
    phase := .span, span := 0, carryV := decide (offsetAfter s c j < zs s),
    carry := if offsetAfter s c j < zs s then zoneByte { s with mem := m, dp := dpAfter s j } (zs s - 1)
      else s.dp.carry } } = _
  rw [decide_eq_decide.mpr left, if_congr left rfl rfl, hm.zoneByte_eq hc _ (by omega)]
  rfl

/-- The loop stores the samples of the fragment, as many as the line wants and the fragment holds (R349). -/
theorem unpack_eq_stored (hw : s.dp.cursor.toNat < s.cfg.WC) (hz : c < zs s) :
    ∃ m, Stored s.dp.cursor.toNat
        (min (s.cfg.WC - s.dp.cursor.toNat) (samplesIn (fragmentLen s c) (firstBit s))) (fragmentCell s c) s m ∧
      unpack c s = { s with mem := m, dp := unpackedDp s c } := by
  obtain ⟨k, hk, hb⟩ := firstBit_even s
  have hlen : 1 ≤ fragmentLen s c := by rw [fragmentLen]; omega
  obtain ⟨m, hm, h⟩ := unpack_after hc (s := s) (c := c)
    (min (s.cfg.WC - s.dp.cursor.toNat) (samplesIn (fragmentLen s c) (firstBit s))) (by omega)
    (by simp only [samplesIn, bitAfter]; omega)
  refine ⟨m, hm, h.trans ?_⟩
  rw [unpackedDp]
  by_cases hn : s.cfg.WC - s.dp.cursor.toNat ≤ samplesIn (fragmentLen s c) (firstBit s)
  · rw [Nat.min_eq_left hn, if_pos hn]
    have cursor := cursor_after hc (s := s) (j := s.cfg.WC - s.dp.cursor.toNat) (by omega)
    have full : s.cfg.WC ≤ (dpAfter s (s.cfg.WC - s.dp.cursor.toNat)).cursor.toNat := by omega
    rw [unpack_of_complete (s := stateAfter s m _) _ full, lineComplete_after m (by omega),
      Nat.add_sub_cancel' (Nat.le_of_lt hw)]
  · have hn := Nat.le_of_not_le hn
    rw [Nat.min_eq_right hn] at hm ⊢
    rw [if_neg (by omega), spanned_after hc hm hz (by omega) rfl]

end

end Sys2Proof.Proofs
end

section
/-! PROOF. DP_FRAME with a line (R344 to R355): the line that begins, the line that goes on, and the frame of the whole
command. -/

namespace Sys2Proof.Proofs
open Sys2Proof.Machine Sys2Proof.Claims

/-- Settles O42: the fragment is the carry byte and the zone from `DP_SPAN` on, and the loop takes its samples. -/
theorem dpFrameResumesLine : Obligations.DpFrameResumesLine := by
  intro s hp hc hm hz hw
  obtain ⟨m, stored, unpacked⟩ := unpack_eq_stored (s := inPacket s) hc hw hz
  refine ⟨_, exec_dpFrame (by simp [hp]) hc, ?_⟩
  rw [dpFrameBody_of_line (by simp [hp]) hm, if_neg (Nat.not_le.mpr hz), unpacked, complete_ok]
  exact ⟨rfl, stored.cells, stored.outside⟩

/-! ### A line that begins (R344 to R348) -/

/-- `begin_line` fills the cells of the line (R344). -/
theorem beginLine_eq_stored (s : State) : ∃ m, Stored 0 s.cfg.WC (fun _ => s.cfg.dpFill) s m ∧
    beginLine s = { s with mem := m, dp := s.dp.lineStart } := by
  have frame := dpFrame_beginLine s
  have begun : beginLine s = { s with mem := (beginLine s).mem, dp := s.dp.lineStart } := by
    rw [← beginLine_dp]
    exact frame.rest
  refine ⟨_, ⟨fun j hj => ?_, fun a ha => frame.outside a (by omega)⟩, begun⟩
  rw [Nat.zero_add]
  exact (sl_beginLine s j).trans (if_pos hj)

/-- The registers after a line has begun at the packet at `f`. -/
def startedDp (s : State) (f : Nat) : DpRegs :=
  let start := f + s.cfg.dpSkip.toNat
  let n := samplesIn (zs s - start) 0
  let d : DpRegs := { s.dp with inc := false }
  if zs s ≤ start
  then { d with phase := .span, span := BitVec.ofNat 17 (start - zs s), cursor := 0, shift2 := 3, carryV := false }
  else if s.cfg.WC ≤ n then completed d s.cfg.WC (10 * s.cfg.WC) (start + (10 * s.cfg.WC + 7) / 8)
  else spanned s d n (10 * n) (zs s - start)

/-- The unit where a line has begun, its cells filled. -/
def lineBegun (s : State) (m : Memory) : State := inPacket { s with mem := m, dp := s.dp.lineStart }

section
variable {s : State} {c : Nat} {m : Memory} (hc : DpOk s.cfg)
  (filled : Stored 0 s.cfg.WC (fun _ => s.cfg.dpFill) s m)

theorem fragmentLen_lineBegun (s : State) (c : Nat) (m : Memory) : fragmentLen (lineBegun s m) c = zs s - c :=
  Nat.zero_add _

theorem bitAfter_lineBegun (s : State) (j : Nat) (m : Memory) : bitAfter (lineBegun s m) j = 10 * j := Nat.zero_add _

include hc filled

/-- With no byte carried, the first fragment is the zone's (R348). -/
theorem fragmentCell_lineBegun {i : Nat} (hi : i < samplesIn (zs s - c) 0) :
    fragmentCell (lineBegun s m) c i = BitVec.ofNat 16 (sampleAt (fun k => zoneByte s (c + k)) (10 * i)) := by
  have hn : samplesIn (zs s - c) 0 = (8 * (zs s - c) - 0) / 10 := rfl
  rw [fragmentCell, bitAfter_lineBegun]
  exact congrArg _ (sampleAt_congr rfl fun k hk => filled.zoneByte_eq hc _ (by omega))

theorem unpackedDp_lineBegun (f : Nat) (hz : f + s.cfg.dpSkip.toNat < zs s) :
    unpackedDp (lineBegun s m) (f + s.cfg.dpSkip.toNat) = startedDp s f := by
  have last : zoneByte (lineBegun s m) (zs s - 1) = zoneByte s (zs s - 1) := filled.zoneByte_eq hc _ (by omega)
  rw [unpackedDp, startedDp, fragmentLen_lineBegun, bitAfter_lineBegun, bitAfter_lineBegun]
  refine (if_congr Iff.rfl rfl ?_).trans (if_neg (Nat.not_le.mpr hz)).symm
  simp only [spanned]
  rw [show zs (lineBegun s m) = zs s from rfl, last, show (lineBegun s m).dp.cursor.toNat = 0 from rfl, Nat.zero_add]
  rfl

/-- The loop of a line that begins takes the samples of the zone. -/
theorem unpack_lineBegun (hz : c < zs s) :
    ∃ m', Stored 0 (min s.cfg.WC (samplesIn (zs s - c) 0))
        (fun i => BitVec.ofNat 16 (sampleAt (fun k => zoneByte s (c + k)) (10 * i))) { s with mem := m } m' ∧
      unpack c (lineBegun s m) = { s with mem := m', dp := unpackedDp (lineBegun s m) c } := by
  obtain ⟨m', ⟨cells, outside⟩, unpacked⟩ := unpack_eq_stored (s := lineBegun s m) hc (line_fits hc).1 hz
  rw [fragmentLen_lineBegun] at cells outside
  refine ⟨m', ⟨fun i hi => (cells i hi).trans ?_, outside⟩, unpacked⟩
  exact fragmentCell_lineBegun hc filled (Nat.lt_min.mp hi).2

end

/-- A line that begins: its cells take the fill, then the samples of its first zone (R344 to R350). -/
theorem startLine_eq_stored {s : State} (f : Nat) (hc : DpOk s.cfg) :
    let start := f + s.cfg.dpSkip.toNat
    ∃ m, (∀ i < s.cfg.WC, ({ s with mem := m } : State).sl i =
        if i < samplesIn (zs s - start) 0
        then BitVec.ofNat 16 (sampleAt (fun k => zoneByte s (start + k)) (10 * i)) else s.cfg.dpFill) ∧
      startLine f s = { s with mem := m, dp := startedDp s f } := by
  intro start
  obtain ⟨m, filled, begun⟩ := beginLine_eq_stored s
  have fill (i : Nat) (hi : i < s.cfg.WC) : ({ s with mem := m } : State).sl i = s.cfg.dpFill := by
    simpa using filled.cells i hi
  rw [startLine, begun]
  by_cases hz : zs s ≤ start
  · have none : samplesIn (zs s - start) 0 = 0 := by rw [Nat.sub_eq_zero_of_le hz]; rfl
    refine ⟨m, fun i hi => ?_, (if_pos hz).trans ?_⟩
    · rw [none, if_neg (Nat.not_lt_zero i)]
      exact fill i hi
    · rw [startedDp, if_pos hz]
      rfl
  · have hz' := Nat.lt_of_not_le hz
    obtain ⟨m', stored, unpacked⟩ := unpack_lineBegun hc filled hz'
    rw [unpackedDp_lineBegun hc filled f hz'] at unpacked
    refine ⟨m', fun i hi => ?_, (if_neg hz).trans unpacked⟩
    split
    · next hn => simpa using stored.cells i (Nat.lt_min.mpr ⟨hi, hn⟩)
    · next hn => exact (stored.sl_outside (by omega)).trans (fill i hi)

/-- Settles O41: `seek` finds the wanted packet, and the line begins with its header read. -/
theorem dpFrameStartsLine : Obligations.DpFrameStartsLine := by
  intro s hp hc hm hf hw start n d
  obtain ⟨m, cells, started⟩ := startLine_eq_stored (s := withHeader s) (headerPointer s) hc
  have body : dpFrameBody s = { s with mem := m, dp := startedDp (withHeader s) (headerPointer s) } := by
    rw [dpFrameBody_of_seek hp hm, seek_of_packet hc hf (Nat.zero_le _), if_pos hw, started]
    rfl
  have outside := (dpFrame_dpFrameBody s).outside
  rw [body] at outside
  refine ⟨_, exec_dpFrame (by simp [hp]) hc, ?_⟩
  rw [body, complete_ok]
  exact ⟨rfl, cells, outside⟩

/-! ### The frame of DP_FRAME (R341, R360) -/

/-- The counters advance by at most one, those of a line only where the line ends, and no line is left in INPKT. -/
structure CountsOnce (d e : DpRegs) : Prop where
  phase : d.phase ≠ .inPkt → e.phase ≠ .inPkt
  lines : e.lines = d.lines ∨ (e.lines = d.lines + 1 ∧ e.phase = .lineDone)
  incLines : e.incLines = d.incLines ∨ (e.incLines = d.incLines + 1 ∧ e.inc = true)
  proto : e.proto = d.proto ∨ e.proto = d.proto + 1
  vcSkip : e.vcSkip = d.vcSkip ∨ e.vcSkip = d.vcSkip + 1
  apSkip : e.apSkip = d.apSkip ∨ e.apSkip = d.apSkip + 1

theorem countsOnce_unpackedDp (s : State) (c : Nat) : CountsOnce s.dp (unpackedDp s c) := by
  rw [unpackedDp]
  split
  · constructor <;> simp [completed]
  · constructor <;> simp [spanned]

theorem countsOnce_startedDp (s : State) (f : Nat) : CountsOnce s.dp (startedDp s f) := by
  rw [startedDp]
  split
  · constructor <;> simp
  split
  · constructor <;> simp [completed]
  · constructor <;> simp [spanned]

theorem countsOnce_startLine {s : State} (f : Nat) (hc : DpOk s.cfg) : CountsOnce s.dp (startLine f s).dp := by
  obtain ⟨m, -, started⟩ := startLine_eq_stored f hc
  rw [started]
  exact countsOnce_startedDp s f

theorem countsOnce_seek {s : State} (hc : DpOk s.cfg) : CountsOnce s.dp (seek 0 s).dp := by
  by_cases hf : headerPointer s = 0x7FF
  · rw [seek_of_sentinel hf]
    constructor <;> simp
  by_cases hz : zs s ≤ headerPointer s
  · rw [seek_of_pastZone hf hz]
    constructor <;> simp [countProto]
  rw [seek_of_packet hc (Nat.lt_of_not_le hz) (Nat.zero_le _)]
  split
  · obtain ⟨phase, lines, incLines, proto, vcSkip, apSkip⟩ :=
      countsOnce_startLine (s := withHeader s) (headerPointer s) hc
    exact ⟨phase, lines, incLines, proto, vcSkip, apSkip⟩
  · constructor <;> simp [countApSkip, withHeader, headerRead]

theorem countsOnce_unpack {s : State} {c : Nat} (hc : DpOk s.cfg) (hz : c < zs s) :
    CountsOnce s.dp (unpack c s).dp := by
  by_cases hw : s.cfg.WC ≤ s.dp.cursor.toNat
  · rw [unpack_of_complete c hw]
    constructor <;> simp [lineComplete]
  · obtain ⟨m, -, unpacked⟩ := unpack_eq_stored hc (Nat.lt_of_not_le hw) hz
    rw [unpacked]
    exact countsOnce_unpackedDp s c

theorem countsOnce_dpFrameBody {s : State} (hc : DpOk s.cfg) : CountsOnce s.dp (dpFrameBody s).dp := by
  by_cases hm : Matching s
  · by_cases hp : s.dp.phase = .seek
    · rw [dpFrameBody_of_seek hp hm]
      exact countsOnce_seek hc
    · rw [dpFrameBody_of_line hp hm]
      split
      · constructor <;> simp [endLine, countProto]
      · next hz =>
        obtain ⟨-, lines, incLines, proto, vcSkip, apSkip⟩ :=
          countsOnce_unpack (s := inPacket s) hc (Nat.lt_of_not_le hz)
        have ends := unpack_ends s.dp.span.toNat (inPacket s)
        exact ⟨fun _ => by rcases ends with h | h <;> simp [h], lines, incLines, proto, vcSkip, apSkip⟩
  · rw [dpFrameBody_of_not_matching hm]
    constructor <;> simp

/-- Settles O39: the body keeps to the DP frame, and each of its ends counts once. -/
theorem dpFrameWritesOnlyDpAndLine : Obligations.DpFrameWritesOnlyDpAndLine := by
  intro s hp hc
  have frame := dpFrame_dpFrameBody s
  obtain ⟨phase, lines, incLines, proto, vcSkip, apSkip⟩ := countsOnce_dpFrameBody hc
  exact ⟨_, exec_dpFrame hp hc, complete_of_dpFrame frame, frame.outside, phase, lines, incLines, proto, vcSkip,
    apSkip⟩

end Sys2Proof.Proofs
end

section
/-! PROOF. The control commands NOP (R400) and CORE_RESET (R402, R602): what the registers and the scratch hold at the
power-on reset, and that CORE_RESET's registers read the same. -/

namespace Sys2Proof.Proofs
open Sys2Proof.Machine Sys2Proof.Claims

/-! ### The power-on reset (R600, R83) -/

/-- The power-on reset puts every register at its value in R600's table. -/
theorem readReg_reset : ∀ x ∈ resetTable, State.reset.readReg x.1 = x.2 := by decide

/-- A zeroed scratch array reads 0 at every index, past its end too. -/
theorem getD_replicate_zero (n i : Nat) : (Vector.replicate n (0 : Byte)).getD i 0 = 0 := by
  rw [vector_getD, Vector.getElem?_replicate]
  split <;> rfl

/-- Where the RS registers are those of the reset, every scratch element is 0 (R83). -/
theorem scratch_of_rs_reset {s : State} (h : s.rs = RsRegs.reset) (i : Nat) :
    s.syn i = 0 ∧ s.sigma i = 0 ∧ s.omega i = 0 ∧ s.loc i = 0 ∧ s.mag i = 0 := by
  rw [State.syn, State.sigma, State.omega, State.loc, State.mag, h]
  exact ⟨getD_replicate_zero 32 i, getD_replicate_zero 34 i, getD_replicate_zero 32 i, getD_replicate_zero 32 i,
    getD_replicate_zero 32 i⟩

/-! ### CORE_RESET -/

/-- The state CORE_RESET leaves: `CMD` holds its word, and its completion finds `ERR` cleared by the reset. -/
def coreResetState (s : State) : State := (coreResetBody s).complete .ok

/-- A register of R600's table but `CMD` and `STATUS` reads after CORE_RESET as after the power-on reset (R602). -/
theorem readReg_coreResetState (s : State) {r : Reg} (hcmd : r ≠ .cmd) (hstatus : r ≠ .status)
    (hview : r ∉ [.vcduId, .vcduVc, .vcduEnc, .mpdu]) : (coreResetState s).readReg r = State.reset.readReg r := by
  cases r with
  | cmd => exact absurd rfl hcmd
  | status => exact absurd rfl hstatus
  | vcduId | vcduVc | vcduEnc | mpdu => simp at hview
  | _ => rfl

/-- The views of `FB` stand outside R600's table as the claim lists it. -/
theorem resetTable_not_view : ∀ x ∈ resetTable, x.1 ∉ [Reg.vcduId, .vcduVc, .vcduEnc, .mpdu] := by decide

/-- Settles O46: NOP's body writes nothing, and CORE_RESET's registers read as the power-on reset's. -/
theorem nopAndCoreReset : Obligations.NopAndCoreReset := by
  refine ⟨fun s => exec_ok rfl, fun s => ⟨coreResetState s, exec_passed rfl, rfl, ?status, ?registers, ?scratch⟩⟩
  case status =>
    have doneAlone : (coreResetState s).statusWord = (State.reset.complete .ok).statusWord := rfl
    exact doneAlone.trans (by decide)
  case registers =>
    intro x hx hcmd hstatus
    rw [readReg_coreResetState s hcmd hstatus (resetTable_not_view x hx), readReg_reset x hx]
  case scratch => exact fun i _ => scratch_of_rs_reset rfl i

end Sys2Proof.Proofs
end

section
/-! PROOF. The CORE's step and its completion (R500 to R506): what the pending command answers, the code it completes
with, and what lowers `DONE` and `ERR`. -/

namespace Sys2Proof.Proofs
open Sys2Proof.Machine Sys2Proof.Claims

/-! ### The pending command's step (R500, R501) -/

/-- The CORE's step on a word that decodes is the command's own execution (R501). -/
theorem step_decoded {s : State} {i : Instr} (hb : s.status.busy = true) (hc : s.host = [] ∨ s.delay = 0)
    (h : decode s.pending = .ok i) : step s = exec i s := by
  rw [step_core (turn_core hb hc), runPending, h]

/-- A whole command word is placed as it is (R130). -/
theorem withFetchWord_toNat (s : State) (w : Word) : s.withFetchWord 32 w.toNat = s.withPending w := by
  rw [State.withFetchWord, Nat.mod_eq_of_lt w.isLt, BitVec.ofNat_toNat, BitVec.setWidth_eq]

/-- Settles O5: a pending word that decodes runs as its command, and an encoded command decodes back. -/
theorem stepRunsPendingCommand : Obligations.StepRunsPendingCommand := by
  refine ⟨fun s i => step_decoded, fun s i hwf => ?_⟩
  rw [withFetchWord_toNat]
  exact step_decoded rfl (.inr rfl) (encodedCommandDecodesBack i hwf)

/-- Settles O8, by the agent that moves: the CORE completes its command, a host access is performed or sets a mark, and
idleness changes nothing. -/
theorem everyStepAnswersNext : Obligations.EveryStepAnswersNext := by
  intro s
  cases hturn : s.turn with
  | core =>
    obtain ⟨t, ht, -⟩ := runPending_completes s
    exact ⟨t, (step_core hturn).trans ht⟩
  | host op rest => exact ⟨hostStep op rest s, by rw [step, hturn]⟩
  | idle => exact ⟨s, by rw [step, hturn]⟩

/-! ### The completion (R503) -/

/-- The first failing check is one of the checks. -/
theorem exists_check_of_firstFailure {checks : List (Bool × ErrCode)} {code : ErrCode}
    (h : firstFailure checks = some code) : ∃ x ∈ checks, x.2 = code := by
  induction checks with
  | nil => cases h
  | cons x checks ih =>
    obtain ⟨fails, c⟩ := x
    cases fails with
    | true => exact ⟨(true, c), List.mem_cons_self, Option.some.inj h⟩
    | false =>
      obtain ⟨x, hx, hcode⟩ := ih h
      exact ⟨x, List.mem_cons_of_mem _ hx, hcode⟩

/-- A failing check never gives the code OK (R502). -/
theorem code_ne_ok_of_checksOf {i : Instr} {s : State} {code : ErrCode}
    (h : firstFailure (checksOf i s) = some code) : code ≠ .ok := by
  obtain ⟨x, hx, rfl⟩ := exists_check_of_firstFailure h
  exact checksOf_codes i s x hx

/-- No unit's commands write `ERR` before the completion (R503). -/
theorem UnitFrame.err {u : CoreUnit} {s t : State} (h : UnitFrame u s t) : t.status.err = s.status.err := by
  cases u <;> (unfold UnitFrame at h; rw [h])

/-- The body leaves `ERR` alone, but CORE_RESET clears it (R402, R503). -/
theorem bodyOf_err (i : Instr) (s : State) :
    (bodyOf i s).status.err = if i = .coreReset then false else s.status.err := by
  split
  · next hi => rw [hi]; rfl
  · next hi => exact (bodyOf_unitFrame hi s).err

/-- Settles O10: a failing check writes the completion with an error code, a body that runs is completed with OK. -/
theorem errorsArePrecise : Obligations.ErrorsArePrecise := by
  intro i s
  cases hc : firstFailure (checksOf i s) with
  | some code =>
    have hcode : code ≠ .ok := code_ne_ok_of_checksOf hc
    exact ⟨s.complete code, exec_failed hc, rfl, rfl, fun _ => complete_error hcode s, fun h => absurd h hcode⟩
  | none =>
    refine ⟨(bodyOf i s).complete .ok, exec_passed hc, rfl, rfl, fun h => absurd rfl h, fun _ => ?_⟩
    rw [← bodyOf_err i s]
    exact Bool.or_false _

/-! ### The order of the checks (R69, R504) -/

/-- The model's `CFG_RS_OK` is the claims' (R69). -/
theorem rsOk_iff_claim {c : CfgRegs} : c.rsOk = true ↔ RsOk c := by
  refine ⟨fun h => ?_, rsOk_of_claim⟩
  obtain ⟨hT, hT', hI, hI', hK, hP⟩ := CfgRegs.rsOk_iff.mp h
  exact ⟨⟨hT, hT'⟩, ⟨hI, hI'⟩, by omega, hP⟩

/-- The model's `CFG_FRAME_OK` is the claims' (R69). -/
theorem frameOk_iff_claim {c : CfgRegs} : c.frameOk = true ↔ FrameOk c :=
  CfgRegs.frameOk_iff.trans (and_congr rsOk_iff_claim CfgRegs.syncOk_iff)

/-- The model's `CFG_DP_OK` is the claims' (R69). -/
theorem dpOk_iff_claim {c : CfgRegs} : c.dpOk = true ↔ DpOk c := by
  refine ⟨fun h => ?_, dpOk_of_claim⟩
  obtain ⟨hframe, hz, hz', hfit, hw⟩ := CfgRegs.dpOk_iff.mp h
  have hZS : (c.ZS : Int) = c.ZSeff := Int.toNat_of_nonneg (by omega)
  have hfit' : ((c.S + c.H + 2 : Nat) : Int) + c.ZSeff ≤ c.FLEN := by
    unfold CfgRegs.ZBASE at hfit
    omega
  exact ⟨frameOk_iff_claim.mp hframe, ⟨hz, Int.toNat_le.mp hz'⟩, hfit', hw⟩

/-- The code of a list of checks: the first check's where it fails, else that of the rest (R504). -/
theorem firstFailure_cons_getD (fails : Bool) (code : ErrCode) (checks : List (Bool × ErrCode)) :
    (firstFailure ((fails, code) :: checks)).getD .ok =
      if fails = true then code else (firstFailure checks).getD .ok := by
  cases fails <;> rfl

/-- A command's checks are the columns of R504's table, in their order, each legality predicate the claims' own. -/
theorem expectedCode_eq (i : Instr) (s : State) : expectedCode i s = (firstFailure (checksOf i s)).getD .ok := by
  cases i with
  | nop | coreReset | gfLog _ | gfExp _ | gfMul _ _ | syncSkip _ | dpReset => rfl
  | _ =>
    simp only [expectedCode, checksOf, firstFailure_cons_getD, firstFailure_nil, Option.getD_none, Bool.not_eq_true',
      ← Bool.not_eq_true, rsOk_iff_claim, CfgRegs.syncOk_iff, frameOk_iff_claim, dpOk_iff_claim, decide_eq_true_eq]

/-- A command completes with the code of its first failing check, or with OK (R504). -/
theorem exec_errcode {i : Instr} {s t : State} (h : exec i s = .next t) : t.status.errcode = expectedCode i s := by
  rw [expectedCode_eq]
  rcases exec_cases h with ⟨code, hc, rfl⟩ | ⟨hc, rfl⟩ <;> (rw [hc]; rfl)

/-- Settles O11: the step's code is ILLEGAL or the command's own, and with `T = 0` the first check of RS_SYN fails. -/
theorem checkOrderDecidesErrorCode : Obligations.CheckOrderDecidesErrorCode := by
  refine ⟨fun s t hb hc hstep => ?_, fun s hT _ => ?_⟩
  · cases hd : decode s.pending with
    | error e =>
      rw [step_illegal hb hc hd] at hstep
      cases hstep
      rfl
    | ok i =>
      rw [step_decoded hb hc hd] at hstep
      exact exec_errcode hstep
  · have hframe : s.cfg.frameOk = false := Bool.eq_false_iff.mpr fun h => by
      have hpos := one_le_T_of_rsOk (rsOk_of_frameOk (frameOk_iff_claim.mp h))
      omega
    have hcheck : firstFailure (checksOf (.rsSyn 7) s) = some .cfg := by simp [checksOf, hframe]
    rw [exec_failed hcheck, complete_error (by decide)]

/-! ### What lowers `DONE` and `ERR` (R503, R506, R511) -/

/-- `DONE` and `ERR` read the same in both. -/
def SameDoneErr (s t : State) : Prop := t.status.done = s.status.done ∧ t.status.err = s.status.err

/-- A write performed anywhere but at `STATUS` leaves `DONE` and `ERR` alone. -/
theorem writeTarget_sameDoneErr (s : State) (v : Word) {x : Target} (h : x ≠ .reg .status) :
    SameDoneErr s (s.writeTarget v x) := by
  cases x with
  | reg r =>
    cases r with
    | status => exact absurd rfl h
    | _ => exact ⟨rfl, rfl⟩
  | scratch x off => exact ⟨rfl, rfl⟩
  | rom x off => exact ⟨rfl, rfl⟩
  | ram a =>
    have hstatus := (writeTarget_rsMemOnly s v (x := .ram a) (by simp)).status
    exact ⟨congrArg Status.done hstatus, congrArg Status.err hstatus⟩

/-- A host write leaves `DONE` and `ERR` alone, or it is the acknowledgement at `STATUS` (R34). -/
theorem memWrite_done_err (s : State) (a : Word) (n : Nat) (v : Word) :
    SameDoneErr s (s.memWrite a n v) ∨
      (a = 0x008 ∧ n = 4 ∧ (s.memWrite a n v).status = s.status.acknowledge (v.getLsbD 1) (v.getLsbD 2)) := by
  rcases memWrite_cases s a n v with ⟨-, h⟩ | ⟨-, h⟩ | ⟨x, hx, h⟩
  · rw [h]; exact .inl ⟨rfl, rfl⟩
  · rw [h]; exact .inl ⟨rfl, rfl⟩
  · rw [h]
    by_cases hstatus : x = .reg .status
    · subst hstatus
      obtain ⟨hn, -, haddr, -⟩ := checkAccess_perform hx
      exact .inr ⟨BitVec.eq_of_toNat_eq (ofAddr_reg_offset haddr).symm, hn, rfl⟩
    · exact .inl (writeTarget_sameDoneErr s v hstatus)

/-- A host access leaves `DONE` and `ERR` alone, or it is the acknowledgement at `STATUS` (R34). -/
theorem hostStep_done_err (op : HostOp) (rest : List HostOp) (s : State) :
    SameDoneErr s (hostStep op rest s) ∨ ∃ v, op = .write 0x008 4 v ∧
      (hostStep op rest s).status = s.status.acknowledge (v.getLsbD 1) (v.getLsbD 2) := by
  rcases hostStep_cases op rest s with ⟨a, n, v, -, rfl, -⟩ | h
  · rcases memWrite_done_err { s with host := rest, delay := s.delay - 1 } a n v with h | ⟨rfl, rfl, h⟩
    · exact .inl h
    · exact .inr ⟨v, rfl, h⟩
  · rw [h.rest]; exact .inl ⟨rfl, rfl⟩

/-- The CORE moves only while a command is pending (R113). -/
theorem busy_of_turn_core {s : State} (h : s.turn = .core) : s.status.busy = true := by
  cases hb : s.status.busy with
  | true => rfl
  | false => cases ho : s.host <;> simp [State.turn, ho, hb] at h

/-- Of the CORE's steps only CORE_RESET's lowers `ERR` (R402, R503). -/
theorem decode_of_err_lowered {s t : State} (h : runPending s = .next t) (hs : s.status.err = true)
    (ht : t.status.err = false) : decode s.pending = .ok .coreReset := by
  cases hd : decode s.pending with
  | error e =>
    rw [runPending, hd] at h
    cases h
    simp [hs] at ht
  | ok i =>
    rw [runPending, hd] at h
    obtain ⟨t', hexec, -, -, herror, hok⟩ := errorsArePrecise i s
    obtain rfl : t' = t := by simpa using hexec.symm.trans h
    by_cases hcode : t'.status.errcode = .ok
    · by_cases hi : i = .coreReset
      · rw [hi]
      · rw [hok hcode, if_neg hi, hs] at ht
        cases ht
    · rw [herror hcode] at ht
      cases ht

/-- Settles O12, by the agent that moves: a completion raises `DONE` and lowers `ERR` in CORE_RESET alone, and a host
access that lowers either is the acknowledgement of that bit. -/
theorem doneAndErrClearedOnlyByHost : Obligations.DoneAndErrClearedOnlyByHost := by
  intro s t hstep
  cases hturn : s.turn with
  | core =>
    have hrun : runPending s = .next t := (step_core hturn).symm.trans hstep
    obtain ⟨t', ht', -, hdone⟩ := runPending_completes s
    obtain rfl : t' = t := by simpa using ht'.symm.trans hrun
    exact ⟨fun _ hlow => absurd hdone (by simp [hlow]),
      fun hs hlow => .inr ⟨busy_of_turn_core hturn, decode_of_err_lowered hrun hs hlow⟩⟩
  | host op rest =>
    rw [step, hturn] at hstep
    cases hstep
    have hhost := host_of_turn hturn
    rcases hostStep_done_err op rest s with ⟨hdone, herr⟩ | ⟨v, rfl, hack⟩
    · exact ⟨fun hs hlow => by simp [hdone, hs] at hlow, fun hs hlow => by simp [herr, hs] at hlow⟩
    · rw [hack]
      exact ⟨fun hs hlow => ⟨v, rest, hhost, by simpa [Status.acknowledge, hs] using hlow⟩,
        fun hs hlow => .inl ⟨v, rest, hhost, by simpa [Status.acknowledge, hs] using hlow⟩⟩
  | idle =>
    rw [step, hturn] at hstep
    cases hstep
    exact ⟨fun hs hlow => by simp [hs] at hlow, fun hs hlow => by simp [hs] at hlow⟩

/-! ### The interrupt line (R510) -/

/-- The three enables at their bit places (R35). -/
theorem irqEn_bits (r : IrqEn) :
    r.toWord.getLsbD 1 = r.doneIe ∧ r.toWord.getLsbD 2 = r.errIe ∧ r.toWord.getLsbD 13 = r.lineIe := by
  simp +decide only [IrqEn.toWord, BitVec.getLsbD_append, getLsbD_ofBool_zero, Nat.reduceSub, if_false,
    if_pos trivial, and_self]

/-- Settles O60: the bits of `STATUS` and `IRQ_EN` as they read are the flags and enables the line is made of. -/
theorem irqFollowsStatusAndEnables : Obligations.IrqFollowsStatusAndEnables := by
  intro s
  obtain ⟨-, hdone, herr, -, -, -, -, -, -, hready, -⟩ := statusAndResultRegistersShowState.1 s
  obtain ⟨hdoneIe, herrIe, hlineIe⟩ := irqEn_bits s.cfg.irqEn
  rw [hdone, herr, hready, State.readReg, hdoneIe, herrIe, hlineIe]
  rfl

end Sys2Proof.Proofs
end

section
/-! PROOF. The state after the power-on reset (R600): the registers as they read, and the invariant. -/

namespace Sys2Proof.Proofs
open Sys2Proof.Machine Sys2Proof.Claims

/-- `MPDU.ZSTART` is the zone's offset in the VCDU, two bytes past its header, whatever `FB` holds (R55). -/
theorem mpdu_zstart (s : State) : (s.readReg .mpdu).extractLsb' 16 8 = BitVec.ofNat 8 (s.cfg.H + 2) := by
  rw [State.readReg, State.mpduWord, BitVec.extractLsb'_append_eq_of_le (by decide),
    BitVec.extractLsb'_append_eq_of_le (by decide), BitVec.extractLsb'_append_eq_of_add_le (by decide),
    BitVec.extractLsb'_eq_self]

/-- Settles O47: R600's table and the scratch are read off the reset state, and `ZSTART` is `H + 2` with the reset's
six-byte VCDU header. -/
theorem resetRegisterValues : Obligations.ResetRegisterValues := by
  have zstart : (State.reset.readReg .mpdu).extractLsb' 16 8 = 8 := mpdu_zstart State.reset
  exact ⟨readReg_reset, zstart, rfl, rfl, rfl, rfl, fun i _ => scratch_of_rs_reset rfl i⟩

/-- Settles O48: no byte of the RAM is written, no stream is loaded, and the DP unit is that of a fresh machine. -/
theorem resetSatisfiesInvariant : Obligations.ResetSatisfiesInvariant where
  left := { mem_wf := rfl, inLen_le := Nat.zero_le _, dp_inv := reset_dp_inv }
  right := reset_dp_lineInv _

end Sys2Proof.Proofs
end
